-- ==== Sys2Proof/Word.lean ====
section
/-! DEFINITION. The word types of QRACC (spec 00 R7): a word is 32 bits, a byte (a codeword, a field element) 8. -/

namespace Sys2Proof

/-- A bus word or a command word (R7). -/
abbrev Word := BitVec 32

/-- A byte: a codeword or an element of GF(256) (R7, R10). -/
abbrev Byte := BitVec 8

end Sys2Proof
end

