-- ==== Sys2Proof/Syntax.lean ====
section
/-! DEFINITION. The ten commands of QRACC, one constructor for each row of the opcode map (spec 30 R93). Every operand
is the unsigned field of the command word taken as it stands (R92), so it has exactly that field's width. -/

namespace Sys2Proof

/-- A command (R93). -/
inductive Instr where
  /-- NOP (R120). -/
  | nop
  /-- GF_MUL a, b: field product (R133). -/
  | gfMul (a b : Byte)
  /-- GF_EXP i: exponent-table read (R134). -/
  | gfExp (i : BitVec 9)
  /-- GF_LOG a: logarithm-table read (R135). -/
  | gfLog (a : Byte)
  /-- RS_GEN n: build the generator polynomial of parity length n (R152). -/
  | rsGen (n : BitVec 8)
  /-- RS_ENC blk: parity of one block (R165). -/
  | rsEnc (blk : BitVec 8)
  /-- PLACE: zig-zag placement of all blocks (R189). -/
  | place
  /-- MASK_EVAL m: realize and score one mask (R232). -/
  | maskEval (m : BitVec 3)
  /-- MASK_SELECT: evaluate all eight masks and keep the best (R236). -/
  | maskSelect
  /-- SCORE: score the grid held in REAL (R238). -/
  | score
  deriving DecidableEq, Repr

end Sys2Proof
end

