-- ==== Sys2Proof/WellFormed.lean ====
section
/-! DEFINITION. Well-formed commands (spec 30 R96). A command as an assembler meets it has numbers for operands, and a
number that does not fit its field is an assembly error. `AsmCommand` is that form and `AsmCommand.fits` its check. An
`Instr` carries each operand in its field's own width, so every `Instr` is the image of a command that fits. -/

namespace Sys2Proof

/-- A command as written in assembler: a mnemonic and its operands as numbers (R96). -/
inductive AsmCommand where
  | nop
  | gfMul (a b : Nat)
  | gfExp (i : Nat)
  | gfLog (a : Nat)
  | rsGen (nsym : Nat)
  | rsEnc (blk : Nat)
  | place
  | maskEval (m : Nat)
  | maskSelect
  | score
  deriving DecidableEq, Repr

/-- Every operand fits its field: a, b, nsym, blk ≤ 255, i ≤ 511, m ≤ 7 (R96). -/
def AsmCommand.fits : AsmCommand → Bool
  | .nop => true
  | .gfMul a b => decide (a ≤ 255) && decide (b ≤ 255)
  | .gfExp i => decide (i ≤ 511)
  | .gfLog a => decide (a ≤ 255)
  | .rsGen nsym => decide (nsym ≤ 255)
  | .rsEnc blk => decide (blk ≤ 255)
  | .place => true
  | .maskEval m => decide (m ≤ 7)
  | .maskSelect => true
  | .score => true

/-- A command of the machine written back as assembler. -/
def Instr.asm : Instr → AsmCommand
  | .nop => .nop
  | .gfMul a b => .gfMul a.toNat b.toNat
  | .gfExp i => .gfExp i.toNat
  | .gfLog a => .gfLog a.toNat
  | .rsGen n => .rsGen n.toNat
  | .rsEnc blk => .rsEnc blk.toNat
  | .place => .place
  | .maskEval m => .maskEval m.toNat
  | .maskSelect => .maskSelect
  | .score => .score

/-- Well-formedness of a command of the machine: its assembler form fits. The widths of `Instr` make it hold of every
`Instr` (Laws/Encoding.lean, `instr_wellFormed`). -/
abbrev Instr.WellFormed (i : Instr) : Prop := i.asm.fits = true

end Sys2Proof
end

