-- ==== Sys2Proof/Decode.lean ====
section
/-! DEFINITION. Decoding a command word, total on every 32-bit word and rejecting by name (spec 30 R94, R95); the
encoder of R93 and R96; and the host's view `decodeTableWord`. -/

namespace Sys2Proof

/-- Why a word is illegal: the two kinds of R95. -/
inductive IllegalWord where
  /-- The opcode is not in R93's table. -/
  | unlistedOpcode
  /-- A listed opcode with a nonzero bit where its format requires 0. -/
  | reservedBitSet
  deriving DecidableEq, Repr

/-- `w[hi:lo]` (R7) as a bit vector of `hi - lo + 1` bits. -/
def wordField (w : Word) (hi lo : Nat) : BitVec (hi - lo + 1) := w.extractLsb' lo (hi - lo + 1)

/-- The check of R94 that the must-be-zero bits of a format are 0: the command if they are, else illegal. -/
def requireZero (zero : Bool) (i : Instr) : Except IllegalWord Instr :=
  if zero then .ok i else .error .reservedBitSet

/-- The decode function (R94), total on every word. -/
def decode (w : Word) : Except IllegalWord Instr :=
  match (wordField w 31 24).toNat with
  | 0x00 => requireZero (wordField w 23 0 == 0) .nop
  | 0x01 => requireZero (wordField w 23 16 == 0) (.gfMul (wordField w 15 8) (wordField w 7 0))
  | 0x02 => requireZero (wordField w 23 9 == 0) (.gfExp (wordField w 8 0))
  | 0x03 => requireZero (wordField w 23 8 == 0) (.gfLog (wordField w 7 0))
  | 0x10 => requireZero (wordField w 23 8 == 0) (.rsGen (wordField w 7 0))
  | 0x11 => requireZero (wordField w 23 8 == 0) (.rsEnc (wordField w 7 0))
  | 0x20 => requireZero (wordField w 23 0 == 0) .place
  | 0x30 => requireZero (wordField w 23 3 == 0) (.maskEval (wordField w 2 0))
  | 0x31 => requireZero (wordField w 23 0 == 0) .maskSelect
  | 0x32 => requireZero (wordField w 23 0 == 0) .score
  | _ => .error .unlistedOpcode

/-- A command word from the four bytes of the CMD write, lowest offset first: byte order is little-endian (R62). -/
def wordOfBytes (b0 b1 b2 b3 : Byte) : Word := b3 ++ b2 ++ b1 ++ b0

/-- The `match` column of the opcode map (R93). -/
def opcodeMatch : Instr → Word
  | .nop => 0x00000000
  | .gfMul _ _ => 0x01000000
  | .gfExp _ => 0x02000000
  | .gfLog _ => 0x03000000
  | .rsGen _ => 0x10000000
  | .rsEnc _ => 0x11000000
  | .place => 0x20000000
  | .maskEval _ => 0x30000000
  | .maskSelect => 0x31000000
  | .score => 0x32000000

/-- The `mask` column of the opcode map (R93). -/
def opcodeMask : Instr → Word
  | .nop => 0xFFFFFFFF
  | .gfMul _ _ => 0xFFFF0000
  | .gfExp _ => 0xFFFFFE00
  | .gfLog _ => 0xFFFFFF00
  | .rsGen _ => 0xFFFFFF00
  | .rsEnc _ => 0xFFFFFF00
  | .place => 0xFFFFFFFF
  | .maskEval _ => 0xFFFFFFF8
  | .maskSelect => 0xFFFFFFFF
  | .score => 0xFFFFFFFF

/-- The operand fields of a command, placed as in R91 and zero elsewhere. -/
def operandBits : Instr → Word
  | .nop => 0
  | .gfMul a b => a.setWidth 32 <<< 8 ||| b.setWidth 32
  | .gfExp i => i.setWidth 32
  | .gfLog a => a.setWidth 32
  | .rsGen n => n.setWidth 32
  | .rsEnc blk => blk.setWidth 32
  | .place => 0
  | .maskEval m => m.setWidth 32
  | .maskSelect => 0
  | .score => 0

/-- The assembled word: `match OR (fields placed as in rule R91)` (R96). -/
def encode (i : Instr) : Word := opcodeMatch i ||| operandBits i

/-- What the decoder reads from a command whose bits are `w`, the table giving the row `nbits` bits: the low `nbits`
bits, every bit above them 0. A command is one 32-bit word (R90), so the bits are one word, stored little-endian. -/
def decodeTableWord (nbits w : Nat) : Option Instr :=
  let bits := w % 2 ^ nbits
  let byteNo (k : Nat) : Byte := BitVec.ofNat 8 (bits >>> (8 * k))
  match decode (wordOfBytes (byteNo 0) (byteNo 1) (byteNo 2) (byteNo 3)) with
  | .ok i => some i
  | .error _ => none

end Sys2Proof
end

