-- ==== Sys2Proof/Config.lean ====
section
/-! DEFINITION. What is fixed for one QRACC (spec 00 R6) and the free values: the three named parameters with their
defaults, the platform's base address, and the opaque constants that stand for values the spec leaves unspecified. -/

namespace Sys2Proof.Config

/-- RULE3_SEMANTICS (R6, R223, R224, D36). -/
inductive Rule3Semantics where
  /-- Delete P1, then P2, and count what was removed (R223); the default. -/
  | strip
  /-- Strict non-overlapping scan of the original line (R224). -/
  | count
  deriving DecidableEq, Repr

/-- MASK7_FORM (R6, R213, D39). -/
inductive Mask7Form where
  /-- The source's literal; the default. -/
  | doc
  /-- The QR standard's mask 111. -/
  | iso
  deriving DecidableEq, Repr

/-- FMT_COPY_B (R6, R212, D34). -/
inductive FmtCopyB where
  /-- Both copies of the format word are written; the default. -/
  | both
  /-- Only copy A is written. -/
  | aOnly
  deriving DecidableEq, Repr

/-- The parameters a model takes as arguments, each with its default (R6). They stand in State because exec has no
other argument; no step changes them. DESIGN CHOICE, safe: log 6. -/
structure Params where
  rule3 : Rule3Semantics := .strip
  mask7 : Mask7Form := .doc
  copyB : FmtCopyB := .both
  deriving DecidableEq, Repr

/-- QRACC_BASE (R61, D53): the platform's choice, left open. Nothing in the block depends on it (R74), and nothing in
the model reads it but `hostAddress`. -/
opaque qraccBase : Nat

/-- Where the platform shows the byte at an offset of the block's window (R61). -/
def hostAddress (offset : BitVec 16) : Nat := qraccBase + offset.toNat

/-- FREE VALUE: what the RAM byte at an offset holds while nothing has written it (R47, R290, U10 "any value"), in the
step whose draw number is given. It has no body: nothing can be proved about its value. DESIGN CHOICE, safe: log 1. -/
opaque freeByte (draw : Nat) (offset : Nat) : Byte

/-- FREE VALUE: what a host read returns that R68 leaves unspecified while BUSY = 1 (U11), in the step whose draw
number is given. It has no body. DESIGN CHOICE, safe: log 2. -/
opaque freeWord (draw : Nat) : Word

/-- The value register ID always reads (R22). -/
def idValue : Word := 0x51520001

end Sys2Proof.Config
end

