-- ==== Sys2Proof/Machine/State.lean ====
section
/-! DEFINITION. The state of QRACC as plain data (spec 10, 70 R290), what reaches it from outside, the reasons a step
can stop, and the state after a hardware reset. -/

namespace Sys2Proof.Machine

/-- The RAM windows as written bytes: a byte offset of the window and the byte there, offsets strictly rising. An
offset that is not listed has not been written since power-on and reads as a free value (R47, U10; log 1). -/
abbrev Memory := List Host.Cell

/-- The canonical form of `Memory`: offsets strictly rising. (No listed entry can equal what an unlisted offset reads
as, since that is no fixed value.) -/
abbrev Memory.wf (m : Memory) : Prop := m.Pairwise (fun x y => x.1 < y.1)

/-- The direction of a bus transaction, a write with its 32 bits of data (R60). -/
inductive Direction where
  | read
  | write (data : Word)
  deriving DecidableEq, Repr

/-- One bus transaction of the host: byte offset, byte count, direction (R60). -/
structure Access where
  offset : BitVec 16
  count  : Nat
  dir    : Direction
  deriving DecidableEq, Repr

/-- The response of a bus transaction (R60). -/
inductive BusStatus where
  | okay
  | error
  deriving DecidableEq, Repr

/-- What the block answers to a bus transaction: OKAY or ERROR, and for a read 32 bits of data (R60). -/
structure Response where
  status : BusStatus
  data   : Option Word
  deriving DecidableEq, Repr

/-- What moves the block next, from outside: a bus transaction of the host, the engine's turn, or a hardware reset
(R11, R69, R290). DESIGN CHOICE, safe: log 3. -/
inductive Input where
  /-- The host makes one transaction (R60). -/
  | access (a : Access)
  /-- The engine moves: it completes the running command, or does nothing when IDLE (R112, R275). -/
  | engine
  /-- Hardware reset is asserted and released (R290). -/
  | hardReset
  deriving DecidableEq, Repr

/-- The causes of a recorded error (R261); their codes are `ErrCode.code`. -/
inductive ErrCode where
  | illegalCmd
  | busy
  | bus
  | accessBusy
  | domain
  | noGen
  | blkRange
  | desc
  | nsym
  | version
  | tmpl
  | placeOvf
  deriving DecidableEq, Repr

/-- The state of QRACC. Every register of Table 10-1 that is stored, the RAM windows, PENDCMD, and the model's own
fields `params`, `inputs`, `response` and `draws`. -/
structure State where
  /-- The parameters of R6; no step changes them (log 6). -/
  params     : Config.Params
  /-- CTRL.IE, interrupt enable (R23). -/
  ie         : Bool
  /-- STATUS.DONE (R24). -/
  done       : Bool
  /-- STATUS.ERR (R24). -/
  err        : Bool
  /-- STATUS.GEN_VALID (R24). -/
  genValid   : Bool
  /-- STATUS.BEST_VALID (R24). -/
  bestValid  : Bool
  /-- ERRCODE.CODE (R25). -/
  errcode    : Byte
  /-- PENDCMD, the accepted command word (R21, R45). STATUS.BUSY is `pendcmd.isSome` (R110; log 10). -/
  pendcmd    : Option Word
  /-- RESULT.VALUE (R27). -/
  result     : Byte
  /-- VERSION.V (R28); SIZE is computed from it. -/
  version    : BitVec 6
  /-- BLK_COUNT.COUNT (R30). -/
  blkCount   : BitVec 8
  /-- GEN_DEG.NSYM (R31). -/
  genDeg     : BitVec 8
  /-- PENALTY (R32). -/
  penalty    : Word
  /-- R1, rule-1 penalty (R32). -/
  r1         : Word
  /-- R2, rule-2 penalty (R32). -/
  r2         : Word
  /-- R3, rule-3 penalty (R32). -/
  r3         : Word
  /-- R4, rule-4 penalty (R32). -/
  r4         : Word
  /-- BEST.MASK (R33). -/
  best       : BitVec 3
  /-- PEN[0..7] (R33). -/
  pen        : Vector Word 8
  /-- FMT[0..7] (R34). -/
  fmt        : Vector (BitVec 15) 8
  /-- PLACE_CAP (R35). -/
  placeCap   : BitVec 16
  /-- PLACE_BITS (R35). -/
  placeBits  : BitVec 16
  /-- GEN[0..255], the generator store (R36). -/
  gen        : Vector Byte 256
  /-- The RAM windows DESC, CW, SHADOW, REAL and TMPL, by byte offset (R39 to R43). -/
  ram        : Memory
  /-- What reaches the block from outside, oldest first (log 3). The model's own field. -/
  inputs     : List Input
  /-- The response of the last bus transaction (R60). The model's own field. -/
  response   : Option Response
  /-- How many steps have been taken that number free values (log 1). The model's own field. -/
  draws      : Nat
  deriving DecidableEq, Repr

/-- Why a step can stop with a fault: never. QRACC never traps, halts or locks up (R260), so the type has no
constructor, and every step of the model is a next state. Safe or unsafe does not arise: nobody raises a fault. -/
inductive Fault where
  deriving DecidableEq, Repr

/-- Why a step can be refused. -/
inductive Refusal where
  /-- Raised only by an arm of `exec` whose instruction has no meaning yet; no arm of this model does. Safe: the model
  stops where the hardware goes on. -/
  | notModelled (mnemonic : String)
  deriving DecidableEq, Repr

/-- The state after a hardware reset (R47, R290): every register as Table 10-1 says, no RAM byte written, the engine
IDLE. The model's own fields (DESIGN CHOICE: log 6, log 7): default parameters, no input pending, no response, draw
counter 0. -/
def State.reset : State where
  params := {}
  ie := false
  done := false
  err := false
  genValid := false
  bestValid := false
  errcode := 0x00
  pendcmd := none
  result := 0x00
  version := 1
  blkCount := 0
  genDeg := 0
  penalty := 0
  r1 := 0
  r2 := 0
  r3 := 0
  r4 := 0
  best := 0
  pen := Vector.replicate 8 0
  fmt := Vector.replicate 8 0
  placeCap := 0
  placeBits := 0
  gen := Vector.replicate 256 0x00
  ram := []
  inputs := []
  response := none
  draws := 0

end Sys2Proof.Machine
end

