-- ==== Sys2Proof/Machine/Ops.lean ====
section
/-! DEFINITION. The named operations over the RAM windows and the engine's completion: reading and writing one byte,
the error codes, recording an error (spec 60 R261, R262), and the completion of a command (40 R112). -/

namespace Sys2Proof.Machine

/-! ## RAM, byte by byte -/

/-- The byte written at an offset, if any was. -/
def Memory.read? : Memory → Nat → Option Byte
  | [], _ => none
  | (x, v) :: rest, a => if x = a then some v else Memory.read? rest a

/-- Write one byte, keeping the offsets rising. -/
def Memory.write : Memory → Nat → Byte → Memory
  | [], a, b => [(a, b)]
  | (x, v) :: rest, a, b =>
    if a < x then (a, b) :: (x, v) :: rest
    else if a = x then (a, b) :: rest
    else (x, v) :: Memory.write rest a b

/-- Mark one byte unwritten again (U12). -/
def Memory.erase (m : Memory) (a : Nat) : Memory := m.filter (fun e => e.1 ≠ a)

/-- Make the bits of one byte that `bits` selects unspecified (R291, U12): a byte selected whole is unwritten again; of
a byte selected in part the selected bits are taken from the free value `free`, and the others stay. An unwritten byte
stays unwritten. -/
def Memory.forgetBits (m : Memory) (a : Nat) (bits free : Byte) : Memory :=
  if bits = 0xFF then m.erase a
  else match m.read? a with
    | none => m
    | some b => m.write a ((b &&& ~~~bits) ||| (free &&& bits))

/-- The RAM byte at an offset as a step reads it: the last value written (R65), or, where nothing was written, the
free value of this step (R47, U10; log 1). -/
def State.byteAt (s : State) (a : Nat) : Byte := (s.ram.read? a).getD (Config.freeByte s.draws a)

/-- Store one byte in RAM. -/
def State.setByte (s : State) (a : Nat) (b : Byte) : State := { s with ram := s.ram.write a b }

/-- Store consecutive bytes in RAM, the first at `a`. -/
def State.setBytes (s : State) (a : Nat) : List Byte → State
  | [] => s
  | b :: rest => State.setBytes (s.setByte a b) (a + 1) rest

/-- Byte `k` of a word, byte 0 the least significant (R62). -/
def byteOfWord (w : Word) (k : Nat) : Byte := w.extractLsb' (8 * k) 8

/-- The 32-bit RAM word at an offset, little-endian (R62). -/
def State.wordAt (s : State) (a : Nat) : Word :=
  wordOfBytes (s.byteAt a) (s.byteAt (a + 1)) (s.byteAt (a + 2)) (s.byteAt (a + 3))

/-- Store a 32-bit word in RAM, little-endian, all 32 bits (R62, R65). -/
def State.setWord (s : State) (a : Nat) (w : Word) : State :=
  s.setBytes a [byteOfWord w 0, byteOfWord w 1, byteOfWord w 2, byteOfWord w 3]

/-! ## Errors and completion -/

/-- The error codes (R261). -/
def ErrCode.code : ErrCode → Byte
  | .illegalCmd => 0x01
  | .busy => 0x02
  | .bus => 0x03
  | .accessBusy => 0x04
  | .domain => 0x05
  | .noGen => 0x06
  | .blkRange => 0x07
  | .desc => 0x08
  | .nsym => 0x09
  | .version => 0x0A
  | .tmpl => 0x0B
  | .placeOvf => 0x0C

/-- `record_error(code)` (R262): the one way an error is recorded, by a command or by a bus access. QRACC takes no
trap (R267): no state is saved and control goes nowhere. -/
def State.recordError (s : State) (e : ErrCode) : State := { s with errcode := e.code, err := true }

/-- Completion of a command that raises no error (R112): BUSY <- 0, DONE <- 1, PENDCMD <- empty. The step's draw
number is used up (log 1). -/
def State.completeOk (s : State) : State := { s with pendcmd := none, done := true, draws := s.draws + 1 }

/-- Completion of a command that raises `e` (R112, R262): as `completeOk`, and the error is recorded. -/
def State.completeErr (s : State) (e : ErrCode) : State := s.completeOk.recordError e

/-- STATUS.BUSY: the engine is RUNNING, PENDCMD holds the accepted word (R24, R110). -/
def State.busy (s : State) : Bool := s.pendcmd.isSome

end Sys2Proof.Machine
end

