-- ==== Sys2Proof/Machine/Flags.lean ====
section
/-! DEFINITION. The flags of QRACC: the STATUS and CTRL words as the bus reads them, the write-1-to-clear rule, and
the interrupt output (spec 10 R23, R24, 60 R266). -/

namespace Sys2Proof.Machine

/-- STATUS as read (R24): BUSY, DONE, ERR, GEN_VALID, BEST_VALID in bits 0 to 4, the rest 0. -/
def State.statusWord (s : State) : Word :=
  (0 : BitVec 27) ++ BitVec.ofBool s.bestValid ++ BitVec.ofBool s.genValid ++ BitVec.ofBool s.err
    ++ BitVec.ofBool s.done ++ BitVec.ofBool s.busy

/-- A host write of STATUS (R24): a 1 clears DONE (bit 1) or ERR (bit 2), a 0 leaves it; the other bits are ignored. -/
def State.writeStatus (s : State) (v : Word) : State :=
  { s with done := s.done && !v.getLsbD 1, err := s.err && !v.getLsbD 2 }

/-- CTRL as read (R23): IE in bit 0; SRST and the rest read 0. -/
def State.ctrlWord (s : State) : Word := (0 : BitVec 31) ++ BitVec.ofBool s.ie

/-- The interrupt output, a level: IRQ = CTRL.IE and (STATUS.DONE or STATUS.ERR) (R266). -/
def State.irq (s : State) : Bool := s.ie && (s.done || s.err)

end Sys2Proof.Machine
end

