-- ==== Sys2Proof/Machine/Operands.lean ====
section
/-! DEFINITION. Where commands find their operands besides the command word (spec 10 R20): the grid side from VERSION,
block descriptors, codewords, template cells and the one-bit grid cells, and how grid cells are written. -/

namespace Sys2Proof.Machine

/-! ## Window bases and bounds (Table 20-1, R6) -/

/-- First offset of DESC (R39). -/
def descBase : Nat := 0x0800
/-- First offset of CW (R43). -/
def cwBase : Nat := 0x1000
/-- Bytes of codeword memory, CW_BYTES (R6). -/
def cwBytes : Nat := 4096
/-- First offset of SHADOW (R41). -/
def shadowBase : Nat := 0x2000
/-- First offset of REAL (R42). -/
def realBase : Nat := 0x4000
/-- First offset of TMPL (R40). -/
def tmplBase : Nat := 0x8000
/-- Block descriptors, BLK_MAX (R6, R30). -/
def blkMax : Nat := 128
/-- Stored rows, and cells a row, of each grid: GRID_ROWS (R6, R40 to R42). -/
def gridRows : Nat := 256

/-! ## The grid side -/

/-- N = 17 + 4·VERSION (R28, C1), for any stored VERSION. -/
def State.side (s : State) : Nat := 17 + 4 * s.version.toNat

/-- 1 ≤ VERSION ≤ 40, the check of R181, R211 and R238. -/
def State.versionOk (s : State) : Bool := decide (1 ≤ s.version.toNat) && decide (s.version.toNat ≤ 40)

/-! ## Block descriptors and codewords -/

/-- A block descriptor's fields (R39). -/
structure BlockDesc where
  doff : Nat
  dlen : Nat
  eoff : Nat
  elen : Nat
  deriving DecidableEq, Repr

/-- DESC[b] (R39): word 0 holds DOFF in bits 11..0 and DLEN in bits 23..16, word 1 EOFF and ELEN. The reserved bits are
ignored. -/
def State.descriptor (s : State) (b : Nat) : BlockDesc :=
  let w0 := s.wordAt (descBase + 8 * b)
  let w1 := s.wordAt (descBase + 8 * b + 4)
  { doff := (wordField w0 11 0).toNat, dlen := (wordField w0 23 16).toNat,
    eoff := (wordField w1 11 0).toNat, elen := (wordField w1 23 16).toNat }

/-- A descriptor is in range when DOFF + DLEN ≤ 4096 and EOFF + ELEN ≤ 4096 (R39). -/
def BlockDesc.inRange (d : BlockDesc) : Bool :=
  decide (d.doff + d.dlen ≤ cwBytes) && decide (d.eoff + d.elen ≤ cwBytes)

/-- CW[a] (R8, R43). -/
def State.codeword (s : State) (a : Nat) : Byte := s.byteAt (cwBase + a)

/-- CW[off .. off+len-1]. -/
def State.codewords (s : State) (off len : Nat) : List Byte := (List.range len).map fun i => s.codeword (off + i)

/-- BLK_COUNT is 0 or more than BLK_MAX (R30). -/
def State.blkCountBad (s : State) : Bool := decide (s.blkCount.toNat = 0) || decide (s.blkCount.toNat > blkMax)

/-! ## Grid cells -/

/-- The offset of the byte that holds cell (r, c) of a one-bit grid (R41, R42). -/
def bitCellOffset (base r c : Nat) : Nat := base + 32 * r + c / 8

/-- Cell (r, c) of a one-bit grid: bit (c mod 8) of its byte (R41, R42). -/
def State.bitCell (s : State) (base r c : Nat) : Bool := (s.byteAt (bitCellOffset base r c)).getLsbD (c % 8)

/-- A byte with bit `i` set to `v`. -/
def byteWithBit (b : Byte) (i : Nat) (v : Bool) : Byte := if v then b ||| (1#8 <<< i) else b &&& ~~~(1#8 <<< i)

/-- Write cell (r, c) of a one-bit grid; the other bits of its byte stay. The other bits of a byte nothing has written
keep the free value they have in this step (log 9). -/
def State.setBitCell (s : State) (base r c : Nat) (v : Bool) : State :=
  s.setByte (bitCellOffset base r c) (byteWithBit (s.byteAt (bitCellOffset base r c)) (c % 8) v)

/-- A cell with the value to write there. -/
abbrev CellValue := (Nat × Nat) × Bool

/-- Write cells of a one-bit grid in the order listed. -/
def State.writeCells (s : State) (base : Nat) (cells : List CellValue) : State :=
  cells.foldl (fun s e => s.setBitCell base e.1.1 e.1.2 e.2) s

/-- The cells (r, c) with r, c < n, row by row (`for r in 0..n-1: for c in 0..n-1`, R189, R232). -/
def gridCells (n : Nat) : List (Nat × Nat) :=
  (List.range n).flatMap fun r => (List.range n).map fun c => (r, c)

/-- Template codes (R40). -/
def tmplPending : BitVec 2 := 0b10
/-- The reserved template code (R40). -/
def tmplReserved : BitVec 2 := 0b11

/-- TMPL[r][c]: bits 2·(c mod 4) + 1 .. 2·(c mod 4) of the byte at 0x8000 + 64·r + (c div 4) (R40). -/
def State.tmplCell (s : State) (r c : Nat) : BitVec 2 :=
  (s.byteAt (tmplBase + 64 * r + c / 4)).extractLsb' (2 * (c % 4)) 2

/-- Character k of a format word goes to cell A(k), k = 0..14 in order (R212). -/
def fmtCellsA : List (Nat × Nat) :=
  [(8, 0), (8, 1), (8, 2), (8, 3), (8, 4), (8, 5), (8, 7), (8, 8),
   (7, 8), (5, 8), (4, 8), (3, 8), (2, 8), (1, 8), (0, 8)]

/-- Character k of a format word goes to cell B(k), k = 0..14 in order (R212). -/
def fmtCellsB (n : Nat) : List (Nat × Nat) :=
  [(n - 1, 8), (n - 2, 8), (n - 3, 8), (n - 4, 8), (n - 5, 8), (n - 6, 8), (n - 7, 8),
   (8, n - 8), (8, n - 7), (8, n - 6), (8, n - 5), (8, n - 4), (8, n - 3), (8, n - 2), (8, n - 1)]

/-- FMT[m][14:0], the format word of mask m (R34). -/
def State.fmtWord (s : State) (m : BitVec 3) : BitVec 15 := s.fmt[m.toNat]'m.isLt

/-- FmtPos(N): copy A, and copy B when FMT_COPY_B = BOTH (R212). -/
def fmtCells (p : Config.Params) (n : Nat) : List (Nat × Nat) :=
  match p.copyB with
  | .both => fmtCellsA ++ fmtCellsB n
  | .aOnly => fmtCellsA

/-- TmplOK(N) (R182): no reserved code in the grid, and every format position fixed. -/
def State.tmplOk (s : State) : Bool :=
  (gridCells s.side).all (fun rc => s.tmplCell rc.1 rc.2 != tmplReserved) &&
  (fmtCells s.params s.side).all (fun rc => s.tmplCell rc.1 rc.2 == 0b00 || s.tmplCell rc.1 rc.2 == 0b01)

end Sys2Proof.Machine
end

