-- ==== Sys2Proof/Machine/Reset.lean ====
section
/-! DEFINITION. The two resets (spec 70 R290 to R292): hardware reset, an input event, and soft reset, a host write of
CTRL with SRST = 1. -/

namespace Sys2Proof.Machine

/-- Hardware reset (R290): every register at its reset value and every RAM byte unspecified again. The parameters, the
inputs still to come and the draw counter are not the block's and stay (log 7). -/
def State.hardReset (s : State) : State :=
  { State.reset with params := s.params, inputs := s.inputs, draws := s.draws + 1 }

/-- The bits of byte `k` of a grid row that hold cells c < n. -/
def rowBits (n k : Nat) : Byte :=
  if 8 * k + 8 ≤ n then 0xFF else if n ≤ 8 * k then 0x00 else BitVec.ofNat 8 (2 ^ (n - 8 * k) - 1)

/-- The bytes of the in-grid rows of a one-bit grid with the bits that hold in-grid cells. Rows and columns that are not
stored (an invalid VERSION can make N more than 256) are left out. -/
def gridByteBits (base n : Nat) : List (Nat × Byte) :=
  (List.range (min n gridRows)).flatMap fun r => (List.range 32).map fun k => (base + 32 * r + k, rowBits n k)

/-- Make the in-grid cells of a one-bit grid unspecified (R291, U12). -/
def State.forgetGrid (s : State) (base : Nat) : Memory :=
  (gridByteBits base s.side).foldl (fun m e => m.forgetBits e.1 e.2 (Config.freeByte s.draws e.1)) s.ram

/-- Make CW[off .. off+len-1] unspecified (R291, U12), as far as CW goes (R67: offsets never wrap). -/
def State.forgetCodewords (s : State) (off len : Nat) : Memory :=
  (List.range len).foldl (fun m t => if off + t < cwBytes then m.erase (cwBase + off + t) else m) s.ram

/-- The RAM after a running command was abandoned (R291): the cells its rule names as "state written" become
unspecified. Whether the command would have failed a check is not asked (log 8). -/
def State.abandonedRam (s : State) : Memory :=
  match s.pendcmd with
  | none => s.ram
  | some w =>
    match decode w with
    | .error _ => s.ram
    | .ok .nop => s.ram
    | .ok (.gfMul _ _) => s.ram
    | .ok (.gfExp _) => s.ram
    | .ok (.gfLog _) => s.ram
    | .ok (.rsGen _) => s.ram
    | .ok (.rsEnc blk) =>
      if blk.toNat < blkMax then s.forgetCodewords (s.descriptor blk.toNat).eoff s.genDeg.toNat else s.ram
    | .ok .place => s.forgetGrid shadowBase
    | .ok (.maskEval _) => s.forgetGrid realBase
    | .ok .maskSelect => s.forgetGrid realBase
    | .ok .score => s.ram

/-- Soft reset (R291): every register at its reset value, GEN cleared, a running command abandoned without completing or
recording an error; RAM kept but for the abandoned command's cells. -/
def State.softReset (s : State) : State :=
  { State.reset with
    params := s.params, ram := s.abandonedRam, inputs := s.inputs, response := s.response, draws := s.draws }

end Sys2Proof.Machine
end

