-- ==== Sys2Proof/Machine/Bus.lean ====
section
/-! DEFINITION. The host's bus port (spec 20): the address map of Table 20-1 and Table 10-1, what each read returns, what
each write does, and the response. One transaction is one step (R60). -/

namespace Sys2Proof.Machine

/-- What stands at an aligned offset (Table 10-1, Table 20-1). -/
inductive Location where
  | id | ctrl | status | errcode | cmd | result | version | size | blkCount | genDeg
  | penalty | r1 | r2 | r3 | r4 | best
  | pen (m : BitVec 3)
  | fmt (m : BitVec 3)
  | placeCap | placeBits
  /-- A word of the GEN window, by the index of its first byte (R36). -/
  | gen (j : Nat)
  /-- A word of the EXP window (R37). -/
  | exp (i : Nat)
  /-- A word of the LOG window (R38). -/
  | log (a : Nat)
  /-- A word of a RAM window: DESC, CW, SHADOW, REAL or TMPL (R39 to R43). -/
  | ram (offset : Nat)
  /-- A reserved offset (R64). -/
  | reserved
  deriving DecidableEq, Repr

/-- The offset lies in a RAM window (Table 20-1). -/
def isRamOffset (a : Nat) : Bool :=
  (decide (0x0800 ≤ a) && decide (a ≤ 0x0BFF)) || (decide (0x1000 ≤ a) && decide (a ≤ 0x5FFF))
    || (decide (0x8000 ≤ a) && decide (a ≤ 0xBFFF))

/-- The window or register bank an offset lies in, for the offsets no single register has (Table 20-1). -/
def locateWindow (a : Nat) : Location :=
  if 0x040 ≤ a ∧ a ≤ 0x05F then .pen (BitVec.ofNat 3 ((a - 0x040) / 4))
  else if 0x060 ≤ a ∧ a ≤ 0x07F then .fmt (BitVec.ofNat 3 ((a - 0x060) / 4))
  else if 0x0100 ≤ a ∧ a ≤ 0x01FF then .gen (a - 0x0100)
  else if 0x0200 ≤ a ∧ a ≤ 0x03FF then .exp (a - 0x0200)
  else if 0x0400 ≤ a ∧ a ≤ 0x04FF then .log (a - 0x0400)
  else if isRamOffset a then .ram a
  else .reserved

/-- Address decoding of an aligned offset (Table 10-1, Table 20-1). -/
def locate (a : Nat) : Location :=
  match a with
  | 0x000 => .id
  | 0x004 => .ctrl
  | 0x008 => .status
  | 0x00C => .errcode
  | 0x010 => .cmd
  | 0x014 => .result
  | 0x018 => .version
  | 0x01C => .size
  | 0x020 => .blkCount
  | 0x024 => .genDeg
  | 0x028 => .penalty
  | 0x02C => .r1
  | 0x030 => .r2
  | 0x034 => .r3
  | 0x038 => .r4
  | 0x03C => .best
  | 0x080 => .placeCap
  | 0x084 => .placeBits
  | _ => locateWindow a

/-- GEN[j] (R36). -/
def State.genByte (s : State) (j : Nat) : Byte := s.gen.toList.getD j 0x00

/-- What a read returns when the engine is IDLE or the location is exact (R22 to R38, R65). -/
def State.readValue (s : State) : Location → Word
  | .id => Config.idValue
  | .ctrl => s.ctrlWord
  | .status => s.statusWord
  | .errcode => s.errcode.setWidth 32
  | .cmd => 0
  | .result => s.result.setWidth 32
  | .version => s.version.setWidth 32
  | .size => BitVec.ofNat 32 s.side
  | .blkCount => s.blkCount.setWidth 32
  | .genDeg => s.genDeg.setWidth 32
  | .penalty => s.penalty
  | .r1 => s.r1
  | .r2 => s.r2
  | .r3 => s.r3
  | .r4 => s.r4
  | .best => s.best.setWidth 32
  | .pen m => s.pen[m.toNat]'m.isLt
  | .fmt m => (s.fmtWord m).setWidth 32
  | .placeCap => s.placeCap.setWidth 32
  | .placeBits => s.placeBits.setWidth 32
  | .gen j => wordOfBytes (s.genByte j) (s.genByte (j + 1)) (s.genByte (j + 2)) (s.genByte (j + 3))
  | .exp i => wordOfBytes (expAt i) (expAt (i + 1)) (expAt (i + 2)) (expAt (i + 3))
  | .log a => wordOfBytes (logAt (BitVec.ofNat 8 a)) (logAt (BitVec.ofNat 8 (a + 1)))
      (logAt (BitVec.ofNat 8 (a + 2))) (logAt (BitVec.ofNat 8 (a + 3)))
  | .ram a => s.wordAt a
  | .reserved => 0

/-- The locations whose reads are exact while BUSY = 1 (R68). -/
def Location.exactWhileBusy : Location → Bool
  | .id => true
  | .ctrl => true
  | .status => true
  | .errcode => true
  | .cmd => true
  | .result => false
  | .version => true
  | .size => true
  | .blkCount => true
  | .genDeg => false
  | .penalty => false
  | .r1 => false
  | .r2 => false
  | .r3 => false
  | .r4 => false
  | .best => false
  | .pen _ => false
  | .fmt _ => true
  | .placeCap => false
  | .placeBits => false
  | .gen _ => false
  | .exp _ => true
  | .log _ => true
  | .ram _ => false
  | .reserved => true

/-- The block answers a transaction (R60); the step's draw number is used up (log 1). -/
def State.respond (s : State) (status : BusStatus) (data : Option Word) : State :=
  { s with response := some { status := status, data := data }, draws := s.draws + 1 }

/-- A bus-side error (R262): the error is recorded, the response is ERROR, and a read returns 0 (R63). -/
def State.busFail (s : State) (e : ErrCode) (dir : Direction) : State :=
  (s.recordError e).respond .error (match dir with | .read => some 0 | .write _ => none)

/-- What a read returns: exact, or the free value of this step where R68 leaves it unspecified (log 2). -/
def State.busRead (s : State) (l : Location) : Word :=
  if s.busy && !l.exactWhileBusy then Config.freeWord s.draws else s.readValue l

/-- Acceptance of a command word while IDLE (R111): PENDCMD <- w, BUSY <- 1, DONE <- 0. -/
def State.accept (s : State) (w : Word) : State := { s with pendcmd := some w, done := false }

/-- A host read of a location (R65, R66, R68). -/
def State.hostRead (s : State) (l : Location) : State :=
  if l = .reserved then s.busFail .bus .read else s.respond .okay (some (s.busRead l))

/-- A write that is dropped with E_ACCESS_BUSY while BUSY = 1, and else performed (R68, R301). -/
def State.writeWhenIdle (s : State) (v : Word) (written : State) : State :=
  if s.busy then s.busFail .accessBusy (.write v) else written.respond .okay none

/-- A host write of CTRL (R23, R291): a 1 in SRST is a soft reset whatever the other bits hold; else IE is written. -/
def State.writeCtrl (s : State) (v : Word) : State :=
  if v.getLsbD 1 then s.softReset else { s with ie := v.getLsbD 0 }

/-- A host write of CMD (R111, R114). -/
def State.writeCmd (s : State) (v : Word) : State :=
  if s.busy then s.busFail .busy (.write v) else (s.accept v).respond .okay none

/-- A host write of a location (R29, R65, R66, R68). -/
def State.hostWrite (s : State) (l : Location) (v : Word) : State :=
  match l with
  | .id => s.respond .okay none
  | .ctrl => (s.writeCtrl v).respond .okay none
  | .status => (s.writeStatus v).respond .okay none
  | .errcode => s.respond .okay none
  | .cmd => s.writeCmd v
  | .result => s.respond .okay none
  | .version => s.writeWhenIdle v { s with version := v.setWidth 6 }
  | .size => s.respond .okay none
  | .blkCount => s.writeWhenIdle v { s with blkCount := v.setWidth 8 }
  | .genDeg => s.respond .okay none
  | .penalty => s.respond .okay none
  | .r1 => s.respond .okay none
  | .r2 => s.respond .okay none
  | .r3 => s.respond .okay none
  | .r4 => s.respond .okay none
  | .best => s.respond .okay none
  | .pen _ => s.respond .okay none
  | .fmt m => s.writeWhenIdle v { s with fmt := s.fmt.set m.toNat (v.setWidth 15) m.isLt }
  | .placeCap => s.respond .okay none
  | .placeBits => s.respond .okay none
  | .gen _ => s.respond .okay none
  | .exp _ => s.respond .okay none
  | .log _ => s.respond .okay none
  | .ram a => s.writeWhenIdle v (s.setWord a v)
  | .reserved => s.busFail .bus (.write v)

/-- The only access form: 32 bits at an offset with A mod 4 = 0 (R63). -/
def Access.wellFormed (a : Access) : Bool := decide (a.count = 4) && decide (a.offset.toNat % 4 = 0)

/-- One bus transaction, one step of the host (R60, R63). -/
def State.hostAccess (s : State) (a : Access) : State :=
  if a.wellFormed then
    match a.dir with
    | .read => s.hostRead (locate a.offset.toNat)
    | .write v => s.hostWrite (locate a.offset.toNat) v
  else s.busFail .bus a.dir

end Sys2Proof.Machine
end

