-- ==== Sys2Proof/Machine/Control.lean ====
section
/-! DEFINITION. The control command (spec 40 R120). -/

namespace Sys2Proof.Machine

/-- NOP (R120): writes no state but the completion's. -/
def execNop (s : State) : Host.Outcome State Fault Refusal := .next s.completeOk

end Sys2Proof.Machine
end

