-- ==== Sys2Proof/Machine/Scorer.lean ====
section
/-! DEFINITION. The four-rule scorer (spec 44 R217 to R229), a function of a grid alone. -/

namespace Sys2Proof.Machine

/-- A grid for scoring: rows of cells, true dark (R217). -/
abbrev Grid := List (List Bool)

/-- The n × n grid whose cell (r, c) is `f r c`. -/
def gridOf (n : Nat) (f : Nat → Nat → Bool) : Grid := (List.range n).map fun r => (List.range n).map (f r)

/-- G[r][c]. -/
def gridCell (g : Grid) (r c : Nat) : Bool := (g.getD r []).getD c false

/-- The 2N lines: the rows from column 0, then the columns from row 0 (R217). -/
def gridLines (n : Nat) (g : Grid) : List (List Bool) :=
  gridOf n (gridCell g) ++ gridOf n (fun c r => gridCell g r c)

/-- What a maximal run of a given length contributes to rule 1 (R220). -/
def runPenalty (len : Nat) : Nat := if len ≥ 5 then len - 2 else 0

/-- Rule 1 along the rest of a line, inside a run of `len` cells of colour `b` so far (R220). -/
def runsFrom (b : Bool) (len : Nat) : List Bool → Nat
  | [] => runPenalty len
  | x :: rest => if x = b then runsFrom b (len + 1) rest else runPenalty len + runsFrom x 1 rest

/-- runs(s) (R220): the sum over the maximal runs of a line. -/
def runs : List Bool → Nat
  | [] => 0
  | x :: rest => runsFrom x 1 rest

/-- Rule 1, the adjacent-module run counter (R220). -/
def rule1 (n : Nat) (g : Grid) : Nat := ((gridLines n g).map runs).sum

/-- What the 2×2 window at (r, c) contributes to rule 2 (R222). -/
def blockPenalty (g : Grid) (r c : Nat) : Nat :=
  if gridCell g r c = gridCell g r (c + 1) ∧ gridCell g r c = gridCell g (r + 1) c
      ∧ gridCell g r c = gridCell g (r + 1) (c + 1) then 3 else 0

/-- Rule 2, the 2×2 block detector over all (N-1)² windows (R222). -/
def rule2 (n : Nat) (g : Grid) : Nat :=
  ((gridCells (n - 1)).map fun rc => blockPenalty g rc.1 rc.2).sum

/-- P1 = 00001011101 (R223). -/
def patternP1 : List Bool := [false, false, false, false, true, false, true, true, true, false, true]

/-- P2 = 10111010000 (R223). -/
def patternP2 : List Bool := [true, false, true, true, true, false, true, false, false, false, false]

/-- strip(s, P) (R223): one left-to-right pass that deletes matches of P; what it emits is never scanned again. The
first number is how many characters of a match are still to be dropped. -/
def stripFrom (p : List Bool) : Nat → List Bool → List Bool
  | _, [] => []
  | k + 1, _ :: rest => stripFrom p k rest
  | 0, x :: rest => if p.isPrefixOf (x :: rest) then stripFrom p (p.length - 1) rest else x :: stripFrom p 0 rest

/-- strip(s, P) from the start of a line (R223). -/
def strip (p s : List Bool) : List Bool := stripFrom p 0 s

/-- count(s, P) (R224): non-overlapping matches, leftmost first, on the original line. The first number is how many
characters of a match are still to be skipped. -/
def countFrom (p : List Bool) : Nat → List Bool → Nat
  | _, [] => 0
  | k + 1, _ :: rest => countFrom p k rest
  | 0, x :: rest => if p.isPrefixOf (x :: rest) then 1 + countFrom p (p.length - 1) rest else countFrom p 0 rest

/-- line3(s) under RULE3_SEMANTICS (R223 STRIP, R224 COUNT). -/
def line3 (sem : Config.Rule3Semantics) (s : List Bool) : Nat :=
  match sem with
  | .strip => (s.length - (strip patternP2 (strip patternP1 s)).length) / 11
  | .count => countFrom patternP1 0 s + countFrom patternP2 0 s

/-- Rule 3, the pattern-match unit (R223, R224). -/
def rule3 (sem : Config.Rule3Semantics) (n : Nat) (g : Grid) : Nat := 40 * ((gridLines n g).map (line3 sem)).sum

/-- The dark cells of the grid (R226). -/
def darkCount (n : Nat) (g : Grid) : Nat := ((gridCells n).filter fun rc => gridCell g rc.1 rc.2).length

/-- Rule 4's penalty of a dark count and a total: q = (20·dark) div total, |10 - q|·10 (R226). -/
def darkPenalty (dark total : Nat) : Nat := ((10 : Int) - ((20 * dark / total : Nat) : Int)).natAbs * 10

/-- Rule 4, the dark-ratio unit (R226). -/
def rule4 (n : Nat) (g : Grid) : Nat := darkPenalty (darkCount n g) (n * n)

/-- The four rule values of a grid (R228). -/
structure Scores where
  s1 : Nat
  s2 : Nat
  s3 : Nat
  s4 : Nat
  deriving DecidableEq, Repr

/-- score(G) (R228). -/
def scoreGrid (p : Config.Params) (n : Nat) (g : Grid) : Scores :=
  { s1 := rule1 n g, s2 := rule2 n g, s3 := rule3 p.rule3 n g, s4 := rule4 n g }

/-- total(G) (R228). -/
def scoreTotal (x : Scores) : Nat := x.s1 + x.s2 + x.s3 + x.s4

/-- R1 to R4 and PENALTY <- the four values and their sum (R232, R236, R238). -/
def State.setScores (s : State) (x : Scores) : State :=
  { s with r1 := BitVec.ofNat 32 x.s1, r2 := BitVec.ofNat 32 x.s2, r3 := BitVec.ofNat 32 x.s3,
           r4 := BitVec.ofNat 32 x.s4, penalty := BitVec.ofNat 32 (scoreTotal x) }

/-- REAL[0..N-1][0..N-1] as a grid (R238). -/
def State.realGrid (s : State) : Grid := gridOf s.side (s.bitCell realBase)

/-- SCORE (R238): score the grid held in REAL; E_VERSION only. -/
def execScore (s : State) : Host.Outcome State Fault Refusal :=
  .next (if s.versionOk then (s.setScores (scoreGrid s.params s.side s.realGrid)).completeOk
    else s.completeErr .version)

end Sys2Proof.Machine
end

