-- ==== Sys2Proof/Machine/Mask.lean ====
section
/-! DEFINITION. The mask unit (spec 44): mask predicates, realization, MASK_EVAL and MASK_SELECT. -/

namespace Sys2Proof.Machine

/-- The checks of MASK_EVAL and MASK_SELECT in their order (R211): the first that fails. -/
def State.maskCheck (s : State) : Option ErrCode :=
  if !s.versionOk then some .version else if !s.tmplOk then some .tmpl else none

/-- pred_m(r, c) (R213), mask 7 in the form MASK7_FORM selects. -/
def maskPred (form : Config.Mask7Form) (m : BitVec 3) (r c : Nat) : Bool :=
  match m.toNat with
  | 0 => (r + c) % 2 == 0
  | 1 => r % 2 == 0
  | 2 => c % 3 == 0
  | 3 => (r + c) % 3 == 0
  | 4 => (r / 2 + c / 3) % 2 == 0
  | 5 => r * c % 2 + r * c % 3 == 0
  | 6 => (r * c % 3 + r * c) % 2 == 0
  | _ => match form with
    | .doc => ((r + c) % 3 + r + c) % 2 == 0
    | .iso => ((r + c) % 2 + r * c % 3) % 2 == 0

/-- The character of the format word that goes to cell (r, c): k with (r, c) = A(k), or B(k) when FMT_COPY_B = BOTH
(R212). -/
def fmtChar? (p : Config.Params) (n r c : Nat) : Option Nat :=
  match fmtCellsA.idxOf? (r, c) with
  | some k => some k
  | none => match p.copyB with
    | .both => (fmtCellsB n).idxOf? (r, c)
    | .aOnly => none

/-- realize(m)[r][c] (R215): a format bit, else the fixed value, else the shadow bit XOR the mask. TmplOK, checked
before, leaves only the pending code for the last case (DESIGN CHOICE, safe: log 15). -/
def State.realizeCell (s : State) (m : BitVec 3) (r c : Nat) : Bool :=
  match fmtChar? s.params s.side r c with
  | some k => (s.fmtWord m).getLsbD (14 - k)
  | none =>
    if s.tmplCell r c = 0b00 ∨ s.tmplCell r c = 0b01 then (s.tmplCell r c).getLsbD 0
    else s.bitCell shadowBase r c ^^ maskPred s.params.mask7 m r c

/-- realize(m) (R215). -/
def State.realize (s : State) (m : BitVec 3) : Grid := gridOf s.side (s.realizeCell m)

/-- The values REAL's in-grid cells get from a grid (R232, R236). -/
def gridWrites (n : Nat) (g : Grid) : List CellValue := (gridCells n).map fun rc => (rc, gridCell g rc.1 rc.2)

/-- The four rule values of mask m's realized grid (R228, R232). -/
def State.maskScores (s : State) (m : BitVec 3) : Scores := scoreGrid s.params s.side (s.realize m)

/-- The total penalty of mask m (R228). -/
def State.maskTotal (s : State) (m : BitVec 3) : Nat := scoreTotal (s.maskScores m)

/-- MASK_EVAL m (R232): REAL, R1 to R4, PENALTY and PEN[m]; BEST and BEST_VALID are not written (D51). -/
def execMaskEval (m : BitVec 3) (s : State) : Host.Outcome State Fault Refusal :=
  .next (match s.maskCheck with
    | some e => s.completeErr e
    | none =>
      { (s.writeCells realBase (gridWrites s.side (s.realize m))).setScores (s.maskScores m) with
        pen := s.pen.set m.toNat (BitVec.ofNat 32 (s.maskTotal m)) m.isLt }.completeOk)

/-- The comparator (R234): the running best, a mask id with its total, against mask `m` with total `t`; it is replaced
only by a strictly lower total. -/
def keepBetter (best : Option (BitVec 3 × Nat)) (m : BitVec 3) (t : Nat) : Option (BitVec 3 × Nat) :=
  match best with
  | none => some (m, t)
  | some (bm, bt) => if t < bt then some (m, t) else some (bm, bt)

/-- The mask ids in the order they are evaluated (R234). -/
def maskIds : List (BitVec 3) := [0, 1, 2, 3, 4, 5, 6, 7]

/-- The id the comparator keeps after all eight masks, `total` giving each mask's penalty (R234, R236). -/
def bestMask (total : BitVec 3 → Nat) : BitVec 3 :=
  match maskIds.foldl (fun best m => keepBetter best m (total m)) none with
  | some (bm, _) => bm
  | none => 0

/-- The id MASK_SELECT chooses (R236). -/
def State.selectedMask (s : State) : BitVec 3 := bestMask s.maskTotal

/-- MASK_SELECT (R236): PEN[0..7], REAL, R1 to R4, PENALTY, BEST and STATUS.BEST_VALID. -/
def execMaskSelect (s : State) : Host.Outcome State Fault Refusal :=
  .next (match s.maskCheck with
    | some e => s.completeErr e
    | none =>
      { (s.writeCells realBase (gridWrites s.side (s.realize s.selectedMask))).setScores (s.maskScores s.selectedMask) with
        pen := Vector.ofFn fun m : Fin 8 => BitVec.ofNat 32 (s.maskTotal (BitVec.ofNat 3 m.val))
        best := s.selectedMask
        bestValid := true }.completeOk)

end Sys2Proof.Machine
end

