-- ==== Sys2Proof/Machine/Placement.lean ====
section
/-! DEFINITION. The placement unit (spec 43): the interleaved bit stream, the zig-zag traversal, and PLACE. -/

namespace Sys2Proof.Machine

/-- The checks of PLACE in their order (R181): the first that fails. -/
def State.placeCheck (s : State) : Option ErrCode :=
  if !s.versionOk then some .version
  else if !s.tmplOk then some .tmpl
  else if s.blkCountBad then some .blkRange
  else if !(List.range s.blkCount.toNat).all (fun b => (s.descriptor b).inRange) then some .desc
  else none

/-! ## The bit stream -/

/-- Round-robin over blocks (R183): codeword 0 of every block in turn, then codeword 1, and so on; a block that has no
codeword at an index is skipped there. -/
def interleave (blocks : List (List Byte)) : List Byte :=
  (List.range ((blocks.map List.length).foldl max 0)).flatMap fun i => blocks.filterMap (fun b => b[i]?)

/-- The data codewords of the blocks 0..BLK_COUNT-1 (R183). -/
def State.dataBlocks (s : State) : List (List Byte) :=
  (List.range s.blkCount.toNat).map fun b => s.codewords (s.descriptor b).doff (s.descriptor b).dlen

/-- The parity codewords of the blocks 0..BLK_COUNT-1 (R183). -/
def State.parityBlocks (s : State) : List (List Byte) :=
  (List.range s.blkCount.toNat).map fun b => s.codewords (s.descriptor b).eoff (s.descriptor b).elen

/-- Q: all data codewords interleaved, then all parity codewords interleaved (R183). -/
def State.codewordSequence (s : State) : List Byte := interleave s.dataBlocks ++ interleave s.parityBlocks

/-- The bits of a codeword, most significant first (R7, R184). -/
def bitsMsbFirst (q : Byte) : List Bool := [7, 6, 5, 4, 3, 2, 1, 0].map q.getLsbD

/-- S_bits: Q with every codeword expanded most significant bit first (R184). -/
def State.bitStream (s : State) : List Bool := s.codewordSequence.flatMap bitsMsbFirst

/-! ## The traversal -/

/-- The right columns of the big columns, from the right (R186): step by 2, and 6 becomes 5. The first argument bounds
the loop. -/
def rightColumns : Nat → Nat → List Nat
  | 0, _ => []
  | fuel + 1, right =>
    if right ≥ 1 then
      let right := if right = 6 then 5 else right
      right :: rightColumns fuel (right - 2)
    else []

/-- The cells of one big column in visit order (R186): upward from the bottom row or downward from the top row, the
right column before the left one in every row. -/
def columnCells (n right : Nat) (up : Bool) : List (Nat × Nat) :=
  (List.range n).flatMap fun v =>
    let r := if up then n - 1 - v else v
    [(r, right), (r, right - 1)]

/-- Every cell the traversal examines, in order: big column p goes upward exactly when p is even (R186). -/
def traversal (n : Nat) : List (Nat × Nat) :=
  ((rightColumns n (n - 1)).zipIdx).flatMap fun (right, p) => columnCells n right (p % 2 == 0)

/-- V = visit_order(N): the pending cells in the order the traversal examines them (R186). -/
def State.visitOrder (s : State) : List (Nat × Nat) :=
  (traversal s.side).filter fun rc => s.tmplCell rc.1 rc.2 == tmplPending

/-! ## The command -/

/-- The cells PLACE writes, in order: every in-grid cell cleared, then the bits into the visited cells, as many as both
lists have (R189). -/
def State.placeWrites (s : State) : List CellValue :=
  (gridCells s.side).map (fun rc => (rc, false)) ++ s.visitOrder.zip s.bitStream

/-- SHADOW, PLACE_CAP and PLACE_BITS as PLACE leaves them (R189, R190). -/
def State.placed (s : State) : State :=
  { s.writeCells shadowBase s.placeWrites with
    placeCap := BitVec.ofNat 16 s.visitOrder.length
    placeBits := BitVec.ofNat 16 (min s.visitOrder.length s.bitStream.length) }

/-- PLACE (R189): the checks of R181, then the placement; more bits than cells raises E_PLACE_OVF after the writes
(R191). -/
def execPlace (s : State) : Host.Outcome State Fault Refusal :=
  .next (match s.placeCheck with
    | some e => s.completeErr e
    | none =>
      if s.bitStream.length > s.visitOrder.length then s.placed.completeErr .placeOvf else s.placed.completeOk)

end Sys2Proof.Machine
end

