-- ==== Sys2Proof/Machine/ReedSolomon.lean ====
section
/-! DEFINITION. The Reed-Solomon unit (spec 42): the generator multiplier RS_GEN and the divider RS_ENC. A polynomial is
the list of its coefficients, highest degree first (R150). -/

namespace Sys2Proof.Machine

/-- One multiplication of a polynomial by (x ⊕ a), the loop body of R152: coefficient 0 stays, coefficient i becomes
g[i] ⊕ gf_mul(g[i-1], a), and the new last one is gf_mul(g[d], a). -/
def mulLinear (g : List Byte) (a : Byte) : List Byte :=
  List.zipWith (· ^^^ ·) (g ++ [0x00]) (0x00 :: g.map (gfMul · a))

/-- The generator polynomial of parity length n: the product of (x ⊕ EXP[d]), d = 0..n-1 (R151, R152). -/
def generator : Nat → List Byte
  | 0 => [0x01]
  | d + 1 => mulLinear (generator d) (expAt d)

/-- GEN as RS_GEN leaves it: the coefficients, and 0x00 from index n + 1 on (R152). -/
def genStore (g : List Byte) : Vector Byte 256 := Vector.ofFn fun j : Fin 256 => g.getD j.val 0x00

/-- RS_GEN n (R152): GEN, GEN_DEG and STATUS.GEN_VALID. No error. -/
def execRsGen (n : BitVec 8) (s : State) : Host.Outcome State Fault Refusal :=
  .next { s with gen := genStore (generator n.toNat), genDeg := n, genValid := true }.completeOk

/-- XOR a list into the first entries of a buffer. -/
def xorInto : List Byte → List Byte → List Byte
  | w :: ws, g :: gs => (w ^^^ g) :: xorInto ws gs
  | ws, _ => ws

/-- `k` elimination steps of the divider on the buffer W (R160), the generator given by its coefficients 1..n. Each step
takes the leading coefficient c off, which no later step reads, and when c ≠ 0 adds gf_mul(GEN[j], c) into the n
entries after it. -/
def eliminate (g : List Byte) : Nat → List Byte → List Byte
  | 0, w => w
  | _ + 1, [] => []
  | k + 1, c :: w => eliminate g k (if c = 0 then w else xorInto w (g.map (gfMul · c)))

/-- rs_parity (R160): append n zero codewords, divide, and keep the last n. `g` is GEN[1..n]. -/
def rsParity (g d : List Byte) : List Byte := eliminate g d.length (d ++ List.replicate g.length 0x00)

/-- GEN[1..GEN_DEG], the coefficients the divider multiplies by (R160). -/
def State.genTail (s : State) : List Byte := (s.gen.toList.drop 1).take s.genDeg.toNat

/-- The checks of RS_ENC in their order (R163): the first that fails. -/
def State.rsEncCheck (s : State) (blk : Nat) : Option ErrCode :=
  if !s.genValid then some .noGen
  else if s.blkCountBad || decide (blk ≥ s.blkCount.toNat) then some .blkRange
  else if !(s.descriptor blk).inRange then some .desc
  else if (s.descriptor blk).elen ≠ s.genDeg.toNat then some .nsym
  else none

/-- The parity codewords of block `blk`, from the data as the command finds it (R164, R165). -/
def State.blockParity (s : State) (blk : Nat) : List Byte :=
  rsParity s.genTail (s.codewords (s.descriptor blk).doff (s.descriptor blk).dlen)

/-- RS_ENC blk (R165): the checks of R163, then CW[EOFF .. EOFF+n-1] <- rs_parity of the block's data. All data is read
before any parity is written (R164). -/
def execRsEnc (blk : BitVec 8) (s : State) : Host.Outcome State Fault Refusal :=
  .next (match s.rsEncCheck blk.toNat with
    | some e => s.completeErr e
    | none => (s.setBytes (cwBase + (s.descriptor blk.toNat).eoff) (s.blockParity blk.toNat)).completeOk)

end Sys2Proof.Machine
end

