-- ==== Sys2Proof/Machine/Dispatch.lean ====
section
/-! DEFINITION. The one match that gives every command its meaning (spec 40 R112: `Exec(cmd)` with its completion). -/

namespace Sys2Proof.Machine

def exec (i : Instr) (s : State) : Host.Outcome State Fault Refusal :=
  match i with
  | .nop => Sys2Proof.Machine.execNop s
  | .gfMul a b => Sys2Proof.Machine.execGfMul a b s
  | .gfExp idx => Sys2Proof.Machine.execGfExp idx s
  | .gfLog a => Sys2Proof.Machine.execGfLog a s
  | .rsGen n => Sys2Proof.Machine.execRsGen n s
  | .rsEnc blk => Sys2Proof.Machine.execRsEnc blk s
  | .place => Sys2Proof.Machine.execPlace s
  | .maskEval m => Sys2Proof.Machine.execMaskEval m s
  | .maskSelect => Sys2Proof.Machine.execMaskSelect s
  | .score => Sys2Proof.Machine.execScore s

end Sys2Proof.Machine
end

