-- ==== Sys2Proof/Machine/Engine.lean ====
section
/-! DEFINITION. The engine's completion step and the choice of the agent that moves (spec 40 R110 to R117). -/

namespace Sys2Proof.Machine

/-- The engine's move (R112): RUNNING, it decodes PENDCMD and completes the command, an illegal word with E_ILLEGAL_CMD
(R95); IDLE, it takes no step and the state stays (R275; log 4). -/
def engineStep (s : State) : Host.Outcome State Fault Refusal :=
  match s.pendcmd with
  | none => .next s
  | some w =>
    match decode w with
    | .ok i => exec i s
    | .error _ => .next (s.completeErr .illegalCmd)

/-- One step of the block and its host (R11, R69): the first pending input moves it, and when none is pending the engine
does (R116's fairness; log 3). -/
def agentStep (s : State) : Host.Outcome State Fault Refusal :=
  match s.inputs with
  | [] => engineStep s
  | .access a :: rest => .next ({ s with inputs := rest }.hostAccess a)
  | .engine :: rest => engineStep { s with inputs := rest }
  | .hardReset :: rest => .next ({ s with inputs := rest }.hardReset)

/-- Make a word the accepted command and the next move the engine's: what a host write of CMD while IDLE does (R111),
followed by the engine's turn. -/
def State.withCommand (s : State) (w : Word) : State :=
  { s.accept w with inputs := .engine :: s.inputs }

end Sys2Proof.Machine
end

