-- ==== Sys2Proof/Machine/Step.lean ====
section
/-! DEFINITION. One step of the machine, and the state in which a given command is the next to run. -/

namespace Sys2Proof.Machine

/-- One step: a host transaction, a hardware reset, or the engine's move (R11, R69, R112). -/
def step (s : State) : Host.Outcome State Fault Refusal := agentStep s

/-- `s` with the command of `nbits` bits `w` accepted, and the engine to move next: QRACC fetches nothing (R72), so a
command comes to run by its acceptance (R111). Log 5. -/
def State.withFetchWord (s : State) (nbits w : Nat) : State := s.withCommand (BitVec.ofNat 32 (w % 2 ^ nbits))

end Sys2Proof.Machine
end

