-- ==== Sys2Proof/Machine/Assembler.lean ====
section
/-! DEFINITION. The assembler syntax of commands and the host-program notations (spec 30 R96, R97). The block knows
none of this: it is the notation in which host programs are written down. -/

namespace Sys2Proof.Machine

/-- The command of the machine an assembler command stands for, its operands placed in their fields (R92, R96). -/
def asmInstr : AsmCommand → Instr
  | .nop => .nop
  | .gfMul a b => .gfMul (BitVec.ofNat 8 a) (BitVec.ofNat 8 b)
  | .gfExp i => .gfExp (BitVec.ofNat 9 i)
  | .gfLog a => .gfLog (BitVec.ofNat 8 a)
  | .rsGen nsym => .rsGen (BitVec.ofNat 8 nsym)
  | .rsEnc blk => .rsEnc (BitVec.ofNat 8 blk)
  | .place => .place
  | .maskEval m => .maskEval (BitVec.ofNat 3 m)
  | .maskSelect => .maskSelect
  | .score => .score

/-- Assemble a command (R96): an operand that does not fit is an assembly error (none), never truncated. -/
def assemble (c : AsmCommand) : Option Word := if c.fits then some (encode (asmInstr c)) else none

/-! ## Text -/

/-- The value of a decimal digit. -/
def decimalDigit? (c : Char) : Option Nat :=
  if '0'.toNat ≤ c.toNat ∧ c.toNat ≤ '9'.toNat then some (c.toNat - '0'.toNat) else none

/-- The value of a hexadecimal digit. -/
def hexDigit? (c : Char) : Option Nat :=
  match decimalDigit? c with
  | some d => some d
  | none =>
    if 'A'.toNat ≤ c.toNat ∧ c.toNat ≤ 'F'.toNat then some (c.toNat - 'A'.toNat + 10)
    else if 'a'.toNat ≤ c.toNat ∧ c.toNat ≤ 'f'.toNat then some (c.toNat - 'a'.toNat + 10)
    else none

/-- The number a non-empty run of digits writes in a base. -/
def digitsValue? (base : Nat) (digit? : Char → Option Nat) (cs : List Char) : Option Nat :=
  if cs.isEmpty then none
  else cs.foldl (fun acc c => acc.bind fun n => (digit? c).map fun d => base * n + d) (some 0)

/-- An operand: a decimal number, or a hexadecimal number written 0x... (R96). -/
def operand? : List Char → Option Nat
  | '0' :: 'x' :: rest => digitsValue? 16 hexDigit? rest
  | cs => digitsValue? 10 decimalDigit? cs

/-- Cut a text at a character; the pieces between the cuts. -/
def cutAt (sep : Char) : List Char → List (List Char)
  | [] => [[]]
  | c :: rest =>
    match cutAt sep rest with
    | [] => [[c]]
    | piece :: more => if c = sep then [] :: piece :: more else (c :: piece) :: more

/-- A text without the blanks around it. -/
def trimBlanks (cs : List Char) : List Char :=
  (((cs.dropWhile (· == ' ')).reverse).dropWhile (· == ' ')).reverse

/-- The operands after a mnemonic, separated by commas (R96). -/
def operands? (cs : List Char) : Option (List Nat) :=
  if (trimBlanks cs).isEmpty then some [] else (cutAt ',' cs).mapM fun piece => operand? (trimBlanks piece)

/-- The command of a mnemonic and its operands (R96). -/
def asmCommand? (mnemonic : List Char) (ops : List Nat) : Option AsmCommand :=
  match String.ofList mnemonic, ops with
  | "NOP", [] => some .nop
  | "GF_MUL", [a, b] => some (.gfMul a b)
  | "GF_EXP", [i] => some (.gfExp i)
  | "GF_LOG", [a] => some (.gfLog a)
  | "RS_GEN", [nsym] => some (.rsGen nsym)
  | "RS_ENC", [blk] => some (.rsEnc blk)
  | "PLACE", [] => some .place
  | "MASK_EVAL", [m] => some (.maskEval m)
  | "MASK_SELECT", [] => some .maskSelect
  | "SCORE", [] => some .score
  | _, _ => none

/-- Assemble one line of text, as its characters (R96). -/
def assembleLine (line : List Char) : Option Word :=
  let cs := trimBlanks line
  let mnemonic := cs.takeWhile (· != ' ')
  ((operands? (cs.drop mnemonic.length)).bind (asmCommand? mnemonic)).bind assemble

/-! ## Host operations (R97) -/

/-- `WR off, v`: one 32-bit bus write. -/
def hostWR (off : BitVec 16) (v : Word) : Input := .access { offset := off, count := 4, dir := .write v }

/-- `RD off`: one 32-bit bus read. -/
def hostRD (off : BitVec 16) : Input := .access { offset := off, count := 4, dir := .read }

/-- `WAIT` in a schedule in which BUSY is polled `polls` times before the command completes, and once after. -/
def hostWAIT (polls : Nat) : List Input := List.replicate polls (hostRD 0x008) ++ [.engine, hostRD 0x008]

/-- `ISSUE w`: write the command word to CMD, then wait. -/
def hostISSUE (w : Word) (polls : Nat) : List Input := hostWR 0x010 w :: hostWAIT polls

/-- `WRBYTES off, bytes`: one write for every 4 bytes, little-endian, padded with 0 bytes to a whole word. -/
def hostWRBYTES (off : BitVec 16) : List Byte → List Input
  | [] => []
  | [b0] => [hostWR off (wordOfBytes b0 0 0 0)]
  | [b0, b1] => [hostWR off (wordOfBytes b0 b1 0 0)]
  | [b0, b1, b2] => [hostWR off (wordOfBytes b0 b1 b2 0)]
  | b0 :: b1 :: b2 :: b3 :: rest => hostWR off (wordOfBytes b0 b1 b2 b3) :: hostWRBYTES (off + 4) rest

end Sys2Proof.Machine
end

