-- ==== Sys2Proof/Safety.lean ====
section
/-! DEFINITION. The terms claims are stated in: field arithmetic without tables, polynomials as functions, the
shift-register divider, the state a command leaves beside its own results, and the invariants of the state. A run of
QRACC is safe when these invariants hold all along it; no step can fault (R260). -/

namespace Sys2Proof.Machine

/-! ## GF(256) without tables -/

/-- Multiplication by x modulo x^8 + x^4 + x^3 + x^2 + 1 (R3, `xtime` of R130). -/
def xtime (v : Byte) : Byte := (v <<< 1) ^^^ (if v.getLsbD 7 then 0x1D else 0x00)

/-- α^n for α = 0x02 (R130). -/
def alphaPow : Nat → Byte
  | 0 => 0x01
  | n + 1 => xtime (alphaPow n)

/-- The carry-less product of two bytes reduced modulo 0x11D, bit by bit of `b` from the top (R132). -/
def fieldProduct (a b : Byte) : Byte :=
  [7, 6, 5, 4, 3, 2, 1, 0].foldl (fun acc k => xtime acc ^^^ (if b.getLsbD k then a else 0x00)) 0x00

/-- P(x) for the coefficients of P, highest degree first (R150). -/
def polyEval (p : List Byte) (x : Byte) : Byte := p.foldl (fun acc c => gfMul acc x ^^^ c) 0x00

/-! ## The divider as a shift register (R166) -/

/-- One clock of the register r on data byte d, `g` being GEN[1..n]: f = d ⊕ r[0], r[j] <- r[j+1] ⊕ gf_mul(GEN[j+1], f),
the last r[n-1] <- gf_mul(GEN[n], f). -/
def lfsrClock (g r : List Byte) (d : Byte) : List Byte :=
  match r with
  | [] => []
  | r0 :: rest => List.zipWith (fun x c => x ^^^ gfMul c (d ^^^ r0)) (rest ++ [0x00]) g

/-- The register after all data bytes, from r = 0. -/
def lfsrParity (g d : List Byte) : List Byte := d.foldl (lfsrClock g) (List.replicate g.length 0x00)

/-! ## What a command leaves beside its own results -/

/-- The state after a command that raised error `code` and wrote nothing else (R112, R262, R267): BUSY = 0, DONE = 1,
ERR = 1, ERRCODE = code. The draw counter is the model's own (log 1). -/
def State.afterError (s : State) (code : Byte) : State :=
  { s with pendcmd := none, done := true, err := true, errcode := code, draws := s.draws + 1 }

/-- The state after a bus-side error `code` on a read or write (R262): ERROR response, read data 0, nothing else. -/
def State.afterBusError (s : State) (code : Byte) (data : Option Word) : State :=
  { s with err := true, errcode := code, response := some { status := .error, data := data }, draws := s.draws + 1 }

/-- The state after a bus access that only answers OKAY. -/
def State.afterOkay (s : State) (data : Option Word) : State :=
  { s with response := some { status := .okay, data := data }, draws := s.draws + 1 }

/-! ## The order of interleaved codewords (R183) -/

/-- How many codewords of an interleaved sequence stand before codeword `i` of block `b`: every codeword of a lower
index, and codeword `i` of the blocks before `b` that have one. -/
def interleaveSlot (blocks : List (List Byte)) (b i : Nat) : Nat :=
  (blocks.map fun x => min i x.length).sum + ((blocks.take b).filter fun x => decide (i < x.length)).length

/-! ## When the checked commands execute -/

/-- RS_ENC's four checks hold (R163). -/
def RsEncReady (blk : BitVec 8) (s : State) : Prop :=
  s.genValid = true ∧ 1 ≤ s.blkCount.toNat ∧ s.blkCount.toNat ≤ 128 ∧ blk.toNat < s.blkCount.toNat ∧
  (s.descriptor blk.toNat).doff + (s.descriptor blk.toNat).dlen ≤ 4096 ∧
  (s.descriptor blk.toNat).eoff + (s.descriptor blk.toNat).elen ≤ 4096 ∧
  (s.descriptor blk.toNat).elen = s.genDeg.toNat

/-- PLACE's four checks hold (R181). -/
def PlaceReady (s : State) : Prop :=
  1 ≤ s.version.toNat ∧ s.version.toNat ≤ 40 ∧ s.tmplOk = true ∧ 1 ≤ s.blkCount.toNat ∧ s.blkCount.toNat ≤ 128 ∧
  ∀ b, b < s.blkCount.toNat → (s.descriptor b).doff + (s.descriptor b).dlen ≤ 4096 ∧
    (s.descriptor b).eoff + (s.descriptor b).elen ≤ 4096

/-! ## Invariants -/

/-- The RAM is in canonical form and lists only offsets of the RAM windows (R61, R67). -/
def RamInv (s : State) : Prop := s.ram.wf ∧ ∀ e ∈ s.ram, isRamOffset e.1 = true

/-- GEN holds the generator polynomial of degree GEN_DEG while GEN_VALID = 1, and 0 before the first RS_GEN (R46, R47,
R152, R291). -/
def GenInv (s : State) : Prop :=
  (s.genValid = true → s.gen = genStore (generator s.genDeg.toNat)) ∧
  (s.genValid = false → s.gen = Vector.replicate 256 0x00 ∧ s.genDeg = 0)

/-- DONE is 0 while BUSY is 1; ERRCODE holds a code of R261, a nonzero one while ERR = 1; BEST is 0 until a MASK_SELECT
has succeeded; PLACE_BITS is at most PLACE_CAP, and that at most the cells of the largest grid outside column 6 (R24,
R25, R33, R111, R190, R261, R311). -/
def RegisterInv (s : State) : Prop :=
  (s.busy = true → s.done = false) ∧ s.errcode.toNat ≤ 0x0C ∧ (s.err = true → 1 ≤ s.errcode.toNat) ∧
  (s.bestValid = false → s.best = 0) ∧ s.placeBits.toNat ≤ s.placeCap.toNat ∧ s.placeCap.toNat ≤ 31152

/-- PENALTY = R1 + R2 + R3 + R4 as numbers, below 2^20, and below 2^19 under RULE3_SEMANTICS = STRIP (R32, R44; DEDUCED,
safe: log 14). -/
def PenaltyInv (s : State) : Prop :=
  s.penalty.toNat = s.r1.toNat + s.r2.toNat + s.r3.toNat + s.r4.toNat ∧ s.penalty.toNat < 2 ^ 20 ∧
  (s.params.rule3 = .strip → s.penalty.toNat < 2 ^ 19)

end Sys2Proof.Machine
end

