-- ==== Sys2Proof/Certificates/Slice0/Obligations.lean ====
section
/-! DEFINITION. The statements about QRACC for the provers, by the numbered rules of spec/. Where a statement gives a
whole next state, the field `draws` of it is the model's own counter of free values (log 1) and says nothing of the
hardware. -/

open Sys2Proof Sys2Proof.Machine

/-! ## Encoding (30_encoding.md) -/

/-- Decoding an assembled command gives it back, every operand at every value its field admits (R93, R94, R96). -/
def Obligations.DecodeInvertsEncode : Prop := ∀ i : Instr, decode (encode i) = .ok i

/-- A word that decodes to a command is that command's assembled word: no bit of a legal word is dropped (R91, R94). -/
def Obligations.EncodeInvertsDecode : Prop := ∀ (w : Word) (i : Instr), decode w = .ok i → encode i = w

/-- A word decodes to a command exactly when it matches a row of the opcode map, and the rows do not overlap (R93). -/
def Obligations.DecodeMatchesOpcodeRow : Prop :=
  ∀ (w : Word) (i : Instr),
    (decode w = .ok i → w &&& opcodeMask i = opcodeMatch i) ∧
    (w &&& opcodeMask i = opcodeMatch i →
      ∃ j, decode w = .ok j ∧ opcodeMatch j = opcodeMatch i ∧ opcodeMask j = opcodeMask i)

/-- Words of the spec's own decoding table T-EN-1 decode as it says. -/
def Obligations.SpecWordsDecode : Prop :=
  decode 0x00000000 = .ok .nop ∧ decode 0x010053CA = .ok (.gfMul 0x53 0xCA) ∧ decode 0x020001FF = .ok (.gfExp 511) ∧
  decode 0x03000000 = .ok (.gfLog 0) ∧ decode 0x100000FF = .ok (.rsGen 255) ∧ decode 0x11000080 = .ok (.rsEnc 128) ∧
  decode 0x20000000 = .ok .place ∧ decode 0x30000007 = .ok (.maskEval 7) ∧ decode 0x31000000 = .ok .maskSelect ∧
  decode 0x32000000 = .ok .score ∧ decode 0x02000200 = .error .reservedBitSet ∧
  decode 0x04000000 = .error .unlistedOpcode

/-! ## The command life cycle (40_control.md) -/

/-- When the accepted word decodes to a command and the engine moves, the step is `exec` of that command, the engine's
turn taken off the pending inputs; an IDLE engine takes no step (R112, R275). -/
def Obligations.StepRunsPendingCommand : Prop :=
  ∀ (s : State) (w : Word) (i : Instr) (rest : List Input),
    (decode w = .ok i →
      step { s with pendcmd := some w, inputs := [] } = exec i { s with pendcmd := some w, inputs := [] } ∧
      step { s with pendcmd := some w, inputs := .engine :: rest } = exec i { s with pendcmd := some w, inputs := rest }) ∧
    step { s with pendcmd := none, inputs := [] } = .next { s with pendcmd := none, inputs := [] }

/-- A command of the opcode table placed by `withFetchWord` is the very next to run, in the state acceptance leaves
(R111, R112). -/
def Obligations.FetchWordRunsTableCommand : Prop :=
  ∀ (s : State) (nbits w : Nat) (i : Instr), decodeTableWord nbits w = some i →
    step (s.withFetchWord nbits w) = exec i { s with pendcmd := some (BitVec.ofNat 32 (w % 2 ^ nbits)), done := false }

/-- A write of CMD while IDLE is accepted, and while RUNNING refused with E_BUSY, the running command unaffected (R111,
R114). -/
def Obligations.CmdWriteAcceptedOrRefused : Prop :=
  ∀ (s : State) (w v : Word) (rest : List Input),
    step { s with pendcmd := none, inputs := hostWR 0x010 v :: rest } =
      .next ({ s with pendcmd := some v, done := false, inputs := rest }.afterOkay none) ∧
    step { s with pendcmd := some w, inputs := hostWR 0x010 v :: rest } =
      .next ({ s with pendcmd := some w, inputs := rest }.afterBusError 0x02 none)

/-- An illegal word, when the engine moves with no input pending or with its turn first among the inputs, changes nothing
but BUSY, DONE, ERR and ERRCODE = 0x01 (R95, R112). -/
def Obligations.IllegalWordCompletesWithError : Prop :=
  ∀ (s : State) (w : Word) (why : IllegalWord) (rest : List Input), decode w = .error why →
    step { s with pendcmd := some w, inputs := [] } =
      .next ({ s with pendcmd := some w, inputs := [] }.afterError 0x01) ∧
    step { s with pendcmd := some w, inputs := .engine :: rest } =
      .next ({ s with pendcmd := some w, inputs := rest }.afterError 0x01)

/-- Whatever word is pending, the engine's move completes it: BUSY = 0, DONE = 1, and the interrupt output is then
CTRL.IE; no input is lost (R112, R266). -/
def Obligations.CompletionEndsRun : Prop :=
  ∀ (s : State) (w : Word) (rest : List Input),
    ∃ t, step { s with pendcmd := some w, inputs := .engine :: rest } = .next t ∧
      t.busy = false ∧ t.done = true ∧ t.ie = s.ie ∧ t.irq = s.ie ∧ t.inputs = rest

/-- From every state, the pending inputs and one more move of the engine bring the block to quiescence: no input left
and the engine IDLE, without a fault (R116, R260, R295). The fairness is the model's, log 3. -/
def Obligations.QuiescenceReached : Prop :=
  ∀ s : State, ∃ t : State, Host.Core.run Sys2Proof.core (s.inputs.length + 1) s = .next t ∧
    t.inputs = [] ∧ t.busy = false

/-- NOP is the word 0, a word with opcode 0x00 and a nonzero operand bit being illegal; it writes no state but BUSY and
DONE; written to CMD while IDLE and completed, it leaves DONE = 1 and STATUS.ERR, ERRCODE and all else as they were
(R120). -/
def Obligations.NopWritesOnlyCompletion : Prop :=
  (decode 0x00000000 = .ok .nop ∧
    ∀ w : BitVec 24, w ≠ 0 → decode ((0x00 : BitVec 8) ++ w) = .error .reservedBitSet) ∧
  ∀ (s : State) (rest : List Input),
    exec .nop s = .next { s with pendcmd := none, done := true, draws := s.draws + 1 } ∧
    Host.Core.run Sys2Proof.core 2
        { s with pendcmd := none, inputs := hostWR 0x010 0x00000000 :: .engine :: rest } =
      .next { s with pendcmd := none, done := true, inputs := rest,
                     response := some { status := .okay, data := none }, draws := s.draws + 2 }

/-- A command error other than E_PLACE_OVF leaves the state as the command found it, apart from BUSY, DONE, ERR and
ERRCODE (R115, R267). -/
def Obligations.CommandErrorsLeaveState : Prop :=
  ∀ (i : Instr) (s t : State), s.err = false → exec i s = .next t → t.err = true → t.errcode ≠ 0x0C →
    t = s.afterError t.errcode

/-- What no command changes: configuration registers, CTRL.IE, parameters, DESC, TMPL; and what only some commands
change: GEN (RS_GEN), BEST (MASK_SELECT), RESULT (the GF commands), the placement counters (PLACE) (R27, R31, R33, R35,
R180, R210). -/
def Obligations.CommandsKeepConfiguration : Prop :=
  ∀ (i : Instr) (s t : State), exec i s = .next t →
    t.version = s.version ∧ t.fmt = s.fmt ∧ t.blkCount = s.blkCount ∧ t.ie = s.ie ∧ t.params = s.params ∧
    t.inputs = s.inputs ∧ t.response = s.response ∧
    ((∀ n, i ≠ .rsGen n) → t.gen = s.gen ∧ t.genDeg = s.genDeg ∧ t.genValid = s.genValid) ∧
    (i ≠ .maskSelect → t.best = s.best ∧ t.bestValid = s.bestValid) ∧
    ((∀ a b, i ≠ .gfMul a b) → (∀ k, i ≠ .gfExp k) → (∀ a, i ≠ .gfLog a) → t.result = s.result) ∧
    (i ≠ .place → t.placeCap = s.placeCap ∧ t.placeBits = s.placeBits) ∧
    (∀ a, a < 0x1000 ∨ 0x6000 ≤ a → t.ram.read? a = s.ram.read? a)

/-! ## The field unit (41_gf.md) -/

/-- The laws of the field product (R132). -/
def Obligations.FieldProductLaws : Prop :=
  ∀ a b c : Byte,
    gfMul a b = gfMul b a ∧ gfMul (gfMul a b) c = gfMul a (gfMul b c) ∧
    gfMul a (b ^^^ c) = gfMul a b ^^^ gfMul a c ∧ gfMul 0x01 a = a ∧ gfMul 0x00 a = 0x00 ∧
    (a ≠ 0 → gfMul a (expAt (255 - (logAt a).toNat)) = 0x01) ∧ a ^^^ a = 0x00 ∧ gfMul a b = fieldProduct a b

/-- GF_MUL, opcode 0x01 with A in bits 15..8 and B in bits 7..0, stores the carry-less product modulo 0x11D in RESULT and
changes nothing else but BUSY and DONE (R132, R133). -/
def Obligations.GfMulStoresFieldProduct : Prop :=
  ∀ (a b : Byte) (s : State),
    decode ((0x01 : BitVec 8) ++ (0x00 : BitVec 8) ++ a ++ b) = .ok (.gfMul a b) ∧
    exec (.gfMul a b) s = .next { s with
      result := fieldProduct a b, pendcmd := none, done := true, draws := s.draws + 1 }

/-- GF_EXP i, opcode 0x02 with IDX in bits 8..0, stores α^(i mod 255) in RESULT for i ≤ 510, and raises E_DOMAIN for
i = 511 with RESULT unchanged; nothing else changes (R130, R134). -/
def Obligations.GfExpStoresPowerOfAlpha : Prop :=
  ∀ (i : BitVec 9) (s : State),
    decode ((0x02 : BitVec 8) ++ (0 : BitVec 15) ++ i) = .ok (.gfExp i) ∧
    (i.toNat ≤ 510 → exec (.gfExp i) s = .next { s with
      result := alphaPow (i.toNat % 255), pendcmd := none, done := true, draws := s.draws + 1 }) ∧
    (i = 511 → exec (.gfExp i) s = .next (s.afterError 0x05))

/-- GF_LOG a, opcode 0x03 with IMM in bits 7..0, stores, for a ≠ 0, an exponent e ≤ 254 with α^e = a, the only one, and
raises E_DOMAIN for a = 0 with RESULT unchanged; nothing else changes (R130, R135). -/
def Obligations.GfLogStoresTheExponent : Prop :=
  ∀ (a : Byte) (s : State),
    decode ((0x03 : BitVec 8) ++ (0 : BitVec 16) ++ a) = .ok (.gfLog a) ∧
    (a ≠ 0 → ∃ e : Byte, e.toNat ≤ 254 ∧ alphaPow e.toNat = a ∧
      (∀ k, k ≤ 254 → alphaPow k = a → k = e.toNat) ∧
      exec (.gfLog a) s = .next { s with result := e, pendcmd := none, done := true, draws := s.draws + 1 }) ∧
    (a = 0 → exec (.gfLog a) s = .next (s.afterError 0x05))

/-! ## The Reed-Solomon unit (42_rs.md) -/

/-- RS_GEN n, opcode 0x10 with IMM in bits 7..0, leaves in GEN a monic polynomial of degree n with the roots α^0 .. α^(n-1) and the constant coefficient
α^(n(n-1)/2), zero from index n + 1 on, sets GEN_DEG and GEN_VALID, and changes nothing else but BUSY and DONE (R152,
R153). -/
def Obligations.RsGenLeavesGenerator : Prop :=
  ∀ (n : BitVec 8) (s : State), decode ((0x10 : BitVec 8) ++ (0 : BitVec 16) ++ n) = .ok (.rsGen n) ∧
    ∃ t, exec (.rsGen n) s = .next t ∧
    t = { s with gen := t.gen, genDeg := n, genValid := true, pendcmd := none, done := true, draws := s.draws + 1 } ∧
    t.genByte 0 = 0x01 ∧ (∀ j, n.toNat < j → t.genByte j = 0x00) ∧
    (∀ d, d < n.toNat → polyEval (t.gen.toList.take (n.toNat + 1)) (alphaPow d) = 0x00) ∧
    t.genByte n.toNat = expAt (n.toNat * (n.toNat - 1) / 2 % 255)

/-- With the generator in GEN and RS_ENC's checks met, RS_ENC completes, and the block's data followed by the parity it
stored is zero at every root α^0 .. α^(n-1) of the generator: all-zero syndromes (R161, R165). -/
def Obligations.RsEncWritesCodeword : Prop :=
  ∀ (blk : BitVec 8) (s : State),
    GenInv s → RsEncReady blk s →
    ∃ t, exec (.rsEnc blk) s = .next t ∧
      ∀ d, d < s.genDeg.toNat →
        polyEval (s.codewords (s.descriptor blk.toNat).doff (s.descriptor blk.toNat).dlen ++
          t.codewords (s.descriptor blk.toNat).eoff (s.descriptor blk.toNat).elen) (alphaPow d) = 0x00

/-- With its checks met, RS_ENC completes, stores rs_parity of the data the command found in CW[EOFF .. EOFF+n-1], and
leaves every other byte of RAM and every register but BUSY and DONE as it was (R164, R165). -/
def Obligations.RsEncStoresParity : Prop :=
  ∀ (blk : BitVec 8) (s : State),
    RsEncReady blk s →
    ∃ t, exec (.rsEnc blk) s = .next t ∧
      t = { s with ram := t.ram, pendcmd := none, done := true, draws := s.draws + 1 } ∧
      (∀ k, k < s.genDeg.toNat → t.ram.read? (0x1000 + (s.descriptor blk.toNat).eoff + k) =
        (rsParity ((s.gen.toList.drop 1).take s.genDeg.toNat)
          (s.codewords (s.descriptor blk.toNat).doff (s.descriptor blk.toNat).dlen))[k]?) ∧
      (∀ a, a < 0x1000 + (s.descriptor blk.toNat).eoff ∨
          0x1000 + (s.descriptor blk.toNat).eoff + s.genDeg.toNat ≤ a → t.ram.read? a = s.ram.read? a)

/-- RS_ENC's checks in their order: the first that fails gives the error code, and nothing else is written (R163). -/
def Obligations.RsEncChecksInOrder : Prop :=
  ∀ (blk : BitVec 8) (s : State),
    (s.genValid = false → exec (.rsEnc blk) s = .next (s.afterError 0x06)) ∧
    (s.genValid = true →
      (s.blkCount.toNat = 0 ∨ s.blkCount.toNat > 128 ∨ blk.toNat ≥ s.blkCount.toNat →
        exec (.rsEnc blk) s = .next (s.afterError 0x07)) ∧
      (1 ≤ s.blkCount.toNat → s.blkCount.toNat ≤ 128 → blk.toNat < s.blkCount.toNat →
        ((s.descriptor blk.toNat).doff + (s.descriptor blk.toNat).dlen > 4096 ∨
          (s.descriptor blk.toNat).eoff + (s.descriptor blk.toNat).elen > 4096 →
          exec (.rsEnc blk) s = .next (s.afterError 0x08)) ∧
        ((s.descriptor blk.toNat).doff + (s.descriptor blk.toNat).dlen ≤ 4096 →
          (s.descriptor blk.toNat).eoff + (s.descriptor blk.toNat).elen ≤ 4096 →
          (s.descriptor blk.toNat).elen ≠ s.genDeg.toNat →
          exec (.rsEnc blk) s = .next (s.afterError 0x09))))

/-- rs_parity is linear over GF(256), maps zero data to zero parity, and does not see leading zeros, for every
generator `g` = GEN[1..n] (R162). -/
def Obligations.RsParityIsLinear : Prop :=
  ∀ (g d e : List Byte) (c : Byte), d.length = e.length →
    rsParity g (List.zipWith (· ^^^ ·) d e) = List.zipWith (· ^^^ ·) (rsParity g d) (rsParity g e) ∧
    rsParity g (d.map (gfMul c)) = (rsParity g d).map (gfMul c) ∧
    (∀ k, rsParity g (List.replicate k 0x00) = List.replicate g.length 0x00) ∧
    rsParity g (0x00 :: d) = rsParity g d

/-- The n-stage linear-feedback shift register gives the parity of the divider, for every generator and all data
(R166). -/
def Obligations.DividerEqualsShiftRegister : Prop := ∀ g d : List Byte, lfsrParity g d = rsParity g d

/-! ## The placement unit (43_place.md) -/

/-- Interleaving loses and invents no codeword, and codeword i of block b stands after every codeword of a lower index
and after codeword i of the blocks before b; Q is the data codewords CW[DOFF + i] of the blocks 0..BLK_COUNT-1
interleaved, followed by their parity codewords CW[EOFF + i] interleaved, so |Q| is the sum of all DLEN + ELEN (R183).
DOFF, DLEN, EOFF and ELEN of descriptor b are bits 11..0 and 23..16 of the little-endian words at 0x800 + 8b and
0x800 + 8b + 4 (R39, R62). -/
def Obligations.InterleaveOrder : Prop :=
  (∀ blocks : List (List Byte),
    (interleave blocks).length = (blocks.map List.length).sum ∧
    ∀ (b i : Nat) (hb : b < blocks.length) (hi : i < blocks[b].length),
      (interleave blocks)[interleaveSlot blocks b i]? = some blocks[b][i]) ∧
  ∀ s : State,
    s.codewordSequence =
      interleave ((List.range s.blkCount.toNat).map fun b =>
          (List.range (s.descriptor b).dlen).map fun i => s.byteAt (0x1000 + ((s.descriptor b).doff + i))) ++
        interleave ((List.range s.blkCount.toNat).map fun b =>
          (List.range (s.descriptor b).elen).map fun i => s.byteAt (0x1000 + ((s.descriptor b).eoff + i))) ∧
    s.codewordSequence.length =
      ((List.range s.blkCount.toNat).map fun b => (s.descriptor b).dlen + (s.descriptor b).elen).sum ∧
    (∀ b : Nat,
      let w0 := s.byteAt (0x800 + 8 * b + 3) ++ s.byteAt (0x800 + 8 * b + 2) ++
        s.byteAt (0x800 + 8 * b + 1) ++ s.byteAt (0x800 + 8 * b)
      let w1 := s.byteAt (0x800 + 8 * b + 7) ++ s.byteAt (0x800 + 8 * b + 6) ++
        s.byteAt (0x800 + 8 * b + 5) ++ s.byteAt (0x800 + 8 * b + 4)
      (s.descriptor b).doff = (w0.extractLsb' 0 12).toNat ∧ (s.descriptor b).dlen = (w0.extractLsb' 16 8).toNat ∧
      (s.descriptor b).eoff = (w1.extractLsb' 0 12).toNat ∧ (s.descriptor b).elen = (w1.extractLsb' 16 8).toNat) ∧
    ∀ off len : Nat, s.codewords off len = (List.range len).map fun i => s.byteAt (0x1000 + (off + i))

/-- The bit stream is Q with every codeword most significant bit first (R184). -/
def Obligations.BitStreamMsbFirst : Prop :=
  ∀ s : State, s.bitStream.length = 8 * s.codewordSequence.length ∧
    ∀ (k t : Nat) (hk : k < s.codewordSequence.length), t < 8 →
      s.bitStream[8 * k + t]? = some (s.codewordSequence[k].getLsbD (7 - t))

/-- The traversal's right columns are N-1, N-3, .., 8, then 5, 3, 1, (N-1)/2 of them; big column p is walked upward exactly
when p is even, the right cell of a row before the left one; every cell outside column 6 is examined exactly once and no
cell of column 6; V is the pending cells in the order in which the traversal examines them, as many as are pending outside
column 6; for every version (R186, R187). -/
def Obligations.TraversalVisitsEachCellOnce : Prop :=
  ∀ v : Nat, 1 ≤ v → v ≤ 40 →
    rightColumns (17 + 4 * v) (16 + 4 * v) = ((List.range (5 + 2 * v)).map fun k => 16 + 4 * v - 2 * k) ++ [5, 3, 1] ∧
    (rightColumns (17 + 4 * v) (16 + 4 * v)).length = (16 + 4 * v) / 2 ∧
    (∀ p x e right, x < 17 + 4 * v → e < 2 → (rightColumns (17 + 4 * v) (16 + 4 * v))[p]? = some right →
      (traversal (17 + 4 * v))[2 * (17 + 4 * v) * p + 2 * x + e]? =
        some (if p % 2 = 0 then 16 + 4 * v - x else x, right - e)) ∧
    (traversal (17 + 4 * v)).Nodup ∧
    (∀ r c, (r, c) ∈ traversal (17 + 4 * v) ↔ r < 17 + 4 * v ∧ c < 17 + 4 * v ∧ c ≠ 6) ∧
    ∀ s : State, s.version.toNat = v →
      s.visitOrder = ((traversal (17 + 4 * v)).filter fun rc => s.tmplCell rc.1 rc.2 = 0b10) ∧
      s.visitOrder.length =
        ((gridCells (17 + 4 * v)).filter fun rc => rc.2 ≠ 6 ∧ s.tmplCell rc.1 rc.2 = 0b10).length

/-- With its checks met and no more bits than pending cells, PLACE completes: the t-th visited cell holds the t-th bit,
every other in-grid cell of SHADOW is 0, PLACE_CAP and PLACE_BITS count cells and bits, and no register but these, BUSY
and DONE changes (R189, R192). -/
def Obligations.PlaceFillsVisitedCells : Prop :=
  ∀ s : State, PlaceReady s → s.bitStream.length ≤ s.visitOrder.length →
    ∃ t, exec .place s = .next t ∧
      t = { s with ram := t.ram, placeCap := BitVec.ofNat 16 s.visitOrder.length,
                   placeBits := BitVec.ofNat 16 s.bitStream.length, pendcmd := none, done := true,
                   draws := s.draws + 1 } ∧
      (∀ (k : Nat) (hv : k < s.visitOrder.length) (hb : k < s.bitStream.length),
        t.bitCell 0x2000 s.visitOrder[k].1 s.visitOrder[k].2 = s.bitStream[k]) ∧
      (∀ r c, r < s.side → c < s.side → (r, c) ∉ s.visitOrder.take s.bitStream.length →
        t.bitCell 0x2000 r c = false)

/-- With its checks met and more bits than pending cells, PLACE fills every visited cell with the first bits, sets
PLACE_CAP and PLACE_BITS to the number of cells, and raises E_PLACE_OVF (R191). -/
def Obligations.PlaceOverflowFillsEveryCell : Prop :=
  ∀ s : State, PlaceReady s → s.visitOrder.length < s.bitStream.length →
    ∃ t, exec .place s = .next t ∧
      t = { s with ram := t.ram, placeCap := BitVec.ofNat 16 s.visitOrder.length,
                   placeBits := BitVec.ofNat 16 s.visitOrder.length, pendcmd := none, done := true,
                   err := true, errcode := 0x0C, draws := s.draws + 1 } ∧
      (∀ (k : Nat) (hv : k < s.visitOrder.length) (hb : k < s.bitStream.length),
        t.bitCell 0x2000 s.visitOrder[k].1 s.visitOrder[k].2 = s.bitStream[k]) ∧
      (∀ r c, r < s.side → c < s.side → (r, c) ∉ s.visitOrder → t.bitCell 0x2000 r c = false)

/-- PLACE's checks in their order: the first that fails gives the error code, and nothing else is written (R181). -/
def Obligations.PlaceChecksInOrder : Prop :=
  ∀ s : State,
    (s.version.toNat < 1 ∨ s.version.toNat > 40 → exec .place s = .next (s.afterError 0x0A)) ∧
    (1 ≤ s.version.toNat → s.version.toNat ≤ 40 →
      (s.tmplOk = false → exec .place s = .next (s.afterError 0x0B)) ∧
      (s.tmplOk = true →
        (s.blkCount.toNat = 0 ∨ s.blkCount.toNat > 128 → exec .place s = .next (s.afterError 0x07)) ∧
        (1 ≤ s.blkCount.toNat → s.blkCount.toNat ≤ 128 →
          (∃ b, b < s.blkCount.toNat ∧ ((s.descriptor b).doff + (s.descriptor b).dlen > 4096 ∨
            (s.descriptor b).eoff + (s.descriptor b).elen > 4096)) →
          exec .place s = .next (s.afterError 0x08))))

/-- The template check: no reserved code in the grid, every format position fixed (R182). The format positions are the
cells A(k) and B(k) of R212's table, 30 distinct ones from N = 21 on, copy A alone when FMT_COPY_B = A_ONLY; N is
17 + 4·VERSION; the template code of cell (r, c) is bits 2·(c mod 4) + 1 .. 2·(c mod 4) of the byte at
0x8000 + 64·r + c div 4 (R40). -/
def Obligations.TemplateCheckMeaning : Prop :=
  (∀ s : State, s.tmplOk = true ↔
    (∀ r c, r < s.side → c < s.side → s.tmplCell r c ≠ 0b11) ∧
    (∀ k, k < 15 → (s.tmplCell (fmtCellsA.getD k (0, 0)).1 (fmtCellsA.getD k (0, 0)).2).toNat ≤ 1 ∧
      (s.params.copyB = .both →
        (s.tmplCell ((fmtCellsB s.side).getD k (0, 0)).1 ((fmtCellsB s.side).getD k (0, 0)).2).toNat ≤ 1))) ∧
  fmtCellsA = [(8, 0), (8, 1), (8, 2), (8, 3), (8, 4), (8, 5), (8, 7), (8, 8), (7, 8), (5, 8), (4, 8), (3, 8), (2, 8),
    (1, 8), (0, 8)] ∧
  (∀ n : Nat, fmtCellsB n = [(n - 1, 8), (n - 2, 8), (n - 3, 8), (n - 4, 8), (n - 5, 8), (n - 6, 8), (n - 7, 8),
    (8, n - 8), (8, n - 7), (8, n - 6), (8, n - 5), (8, n - 4), (8, n - 3), (8, n - 2), (8, n - 1)]) ∧
  (∀ n : Nat, 21 ≤ n → (fmtCellsA ++ fmtCellsB n).Nodup) ∧
  (∀ (p : Config.Params) (n : Nat), (p.copyB = .both → fmtCells p n = fmtCellsA ++ fmtCellsB n) ∧
    (p.copyB = .aOnly → fmtCells p n = fmtCellsA)) ∧
  ∀ s : State, s.side = 17 + 4 * s.version.toNat ∧
    ∀ r c : Nat,
      (s.tmplCell r c).getLsbD 0 = (s.byteAt (0x8000 + 64 * r + c / 4)).getLsbD (2 * (c % 4)) ∧
      (s.tmplCell r c).getLsbD 1 = (s.byteAt (0x8000 + 64 * r + c / 4)).getLsbD (2 * (c % 4) + 1)

/-- The commands that write a grid leave every byte of RAM outside the grid's in-grid cells unchanged, and of a written
byte they share, the bits of out-of-grid cells: PLACE in SHADOW, MASK_EVAL and MASK_SELECT in REAL (R189, R232, R236). Cell
(r, c) of such a grid is bit c mod 8 of the byte at its base + 32·r + c div 8 (R41, R42). -/
def Obligations.GridCommandsKeepOtherMemory : Prop :=
  (∀ (s : State) (base r c : Nat), s.bitCell base r c = (s.byteAt (base + 32 * r + c / 8)).getLsbD (c % 8)) ∧
  ∀ (i : Instr) (base : Nat) (s t : State),
    (i = .place ∧ base = 0x2000) ∨ ((∃ m, i = .maskEval m) ∧ base = 0x4000) ∨ (i = .maskSelect ∧ base = 0x4000) →
    exec i s = .next t →
    (∀ a, (∀ r c, r < s.side → c < s.side → a ≠ base + 32 * r + c / 8) → t.ram.read? a = s.ram.read? a) ∧
    (∀ r c, r < 256 → c < 256 → ¬(r < s.side ∧ c < s.side) → s.ram.read? (base + 32 * r + c / 8) ≠ none →
      t.bitCell base r c = s.bitCell base r c)

/-! ## The mask unit (44_mask.md) -/

/-- With its checks met, MASK_EVAL m completes: REAL's format cells hold the format word, its other fixed cells the
template's value, its pending cells the shadow bit XOR the mask; R1 to R4 are the four rules of the grid now in REAL,
PENALTY and PEN[m] their sum; no other register but BUSY and DONE changes (R215, R232). The mask predicates are the lines
of R213's table, mask 7 in both forms of MASK7_FORM; mask 6 is the QR standard's form as well (R214). -/
def Obligations.MaskEvalRealizesAndScores : Prop :=
  (∀ (form : Config.Mask7Form) (r c : Nat),
    (maskPred form 0 r c = true ↔ (r + c) % 2 = 0) ∧
    (maskPred form 1 r c = true ↔ r % 2 = 0) ∧
    (maskPred form 2 r c = true ↔ c % 3 = 0) ∧
    (maskPred form 3 r c = true ↔ (r + c) % 3 = 0) ∧
    (maskPred form 4 r c = true ↔ (r / 2 + c / 3) % 2 = 0) ∧
    (maskPred form 5 r c = true ↔ r * c % 2 + r * c % 3 = 0) ∧
    (maskPred form 6 r c = true ↔ (r * c % 3 + r * c) % 2 = 0) ∧
    (maskPred form 6 r c = true ↔ (r * c % 2 + r * c % 3) % 2 = 0) ∧
    (maskPred .doc 7 r c = true ↔ ((r + c) % 3 + r + c) % 2 = 0) ∧
    (maskPred .iso 7 r c = true ↔ ((r + c) % 2 + r * c % 3) % 2 = 0)) ∧
  (∀ (m : BitVec 3) (s : State), s.fmtWord m = s.fmt[m.toNat]'m.isLt) ∧
  ∀ (m : BitVec 3) (s : State), 1 ≤ s.version.toNat → s.version.toNat ≤ 40 → s.tmplOk = true →
    ∃ t, exec (.maskEval m) s = .next t ∧
      t = { s with ram := t.ram, r1 := t.r1, r2 := t.r2, r3 := t.r3, r4 := t.r4, penalty := t.penalty,
                   pen := s.pen.set m.toNat t.penalty m.isLt, pendcmd := none, done := true,
                   draws := s.draws + 1 } ∧
      (∀ k, k < 15 →
        t.bitCell 0x4000 (fmtCellsA.getD k (0, 0)).1 (fmtCellsA.getD k (0, 0)).2 = (s.fmtWord m).getLsbD (14 - k) ∧
        (s.params.copyB = .both →
          t.bitCell 0x4000 ((fmtCellsB s.side).getD k (0, 0)).1 ((fmtCellsB s.side).getD k (0, 0)).2 =
            (s.fmtWord m).getLsbD (14 - k))) ∧
      (∀ r c, r < s.side → c < s.side → (r, c) ∉ fmtCells s.params s.side →
        (s.tmplCell r c ≠ 0b10 → t.bitCell 0x4000 r c = (s.tmplCell r c).getLsbD 0) ∧
        (s.tmplCell r c = 0b10 →
          t.bitCell 0x4000 r c = (s.bitCell 0x2000 r c ^^ maskPred s.params.mask7 m r c))) ∧
      t.r1 = BitVec.ofNat 32 (rule1 s.side t.realGrid) ∧ t.r2 = BitVec.ofNat 32 (rule2 s.side t.realGrid) ∧
      t.r3 = BitVec.ofNat 32 (rule3 s.params.rule3 s.side t.realGrid) ∧
      t.r4 = BitVec.ofNat 32 (rule4 s.side t.realGrid) ∧ t.penalty = t.r1 + t.r2 + t.r3 + t.r4

/-- With its checks met, MASK_SELECT completes: PEN[m] is what MASK_EVAL m would report, BEST is the smallest id with the
least PEN, PENALTY is PEN[BEST], BEST_VALID = 1, REAL and R1 to R4 are what MASK_EVAL BEST would write; no other
register but BUSY and DONE changes (R234, R236). That all RAM, the bits beside in-grid cells in never written bytes
included, is as after MASK_EVAL BEST rests on the model's choice of log 9. -/
def Obligations.MaskSelectKeepsLowest : Prop :=
  ∀ s : State, 1 ≤ s.version.toNat → s.version.toNat ≤ 40 → s.tmplOk = true →
    ∃ t, exec .maskSelect s = .next t ∧
      t = { s with ram := t.ram, r1 := t.r1, r2 := t.r2, r3 := t.r3, r4 := t.r4, penalty := t.penalty,
                   pen := t.pen, best := t.best, bestValid := true, pendcmd := none, done := true,
                   draws := s.draws + 1 } ∧
      (∀ m : BitVec 3,
        (t.pen[t.best.toNat]'t.best.isLt).toNat ≤ (t.pen[m.toNat]'m.isLt).toNat ∧
        (m.toNat < t.best.toNat → (t.pen[t.best.toNat]'t.best.isLt).toNat < (t.pen[m.toNat]'m.isLt).toNat) ∧
        ∀ u, exec (.maskEval m) s = .next u → t.pen[m.toNat]'m.isLt = u.penalty) ∧
      t.penalty = t.pen[t.best.toNat]'t.best.isLt ∧
      ∃ u, exec (.maskEval t.best) s = .next u ∧ t.ram = u.ram ∧
        t.r1 = u.r1 ∧ t.r2 = u.r2 ∧ t.r3 = u.r3 ∧ t.r4 = u.r4 ∧ t.penalty = u.penalty

/-- The checks of MASK_EVAL and MASK_SELECT in their order, and SCORE's one check: the first that fails gives the error
code, and nothing else is written (R211). -/
def Obligations.MaskChecksInOrder : Prop :=
  ∀ (m : BitVec 3) (s : State),
    (s.version.toNat < 1 ∨ s.version.toNat > 40 →
      exec (.maskEval m) s = .next (s.afterError 0x0A) ∧ exec .maskSelect s = .next (s.afterError 0x0A) ∧
      exec .score s = .next (s.afterError 0x0A)) ∧
    (1 ≤ s.version.toNat → s.version.toNat ≤ 40 → s.tmplOk = false →
      exec (.maskEval m) s = .next (s.afterError 0x0B) ∧ exec .maskSelect s = .next (s.afterError 0x0B))

/-- SCORE, the word 0x32000000, completes with a valid VERSION: R1 to R4 are the four rules of the grid in REAL and PENALTY
their sum, and no other state but BUSY and DONE changes; otherwise it raises E_VERSION (R238). The grid's cells are REAL's
with r, c < N, and rule 2 of any grid adds 3 for each of the (N-1)² windows of four equal cells (R222). -/
def Obligations.ScoreReportsFourRules : Prop :=
  (∀ (s : State) (r c : Nat), r < s.side → c < s.side → gridCell s.realGrid r c = s.bitCell 0x4000 r c) ∧
  (∀ (n : Nat) (g : Grid),
    rule2 n g = ((List.range (n - 1)).map fun r => ((List.range (n - 1)).map fun c =>
      if gridCell g r c = gridCell g r (c + 1) ∧ gridCell g r (c + 1) = gridCell g (r + 1) c ∧
          gridCell g (r + 1) c = gridCell g (r + 1) (c + 1) then 3 else 0).sum).sum) ∧
  decode 0x32000000 = .ok .score ∧
  ∀ s : State,
    (1 ≤ s.version.toNat → s.version.toNat ≤ 40 →
      exec .score s = .next { s with
        r1 := BitVec.ofNat 32 (rule1 s.side s.realGrid), r2 := BitVec.ofNat 32 (rule2 s.side s.realGrid),
        r3 := BitVec.ofNat 32 (rule3 s.params.rule3 s.side s.realGrid),
        r4 := BitVec.ofNat 32 (rule4 s.side s.realGrid),
        penalty := BitVec.ofNat 32 (rule1 s.side s.realGrid) + BitVec.ofNat 32 (rule2 s.side s.realGrid) +
          BitVec.ofNat 32 (rule3 s.params.rule3 s.side s.realGrid) + BitVec.ofNat 32 (rule4 s.side s.realGrid),
        pendcmd := none, done := true, draws := s.draws + 1 }) ∧
    (s.version.toNat < 1 ∨ s.version.toNat > 40 → exec .score s = .next (s.afterError 0x0A))

/-- SCORE of a uniform grid of either colour and any version: R1 = 2N(N-2), R2 = 3(N-1)², R3 = 0, R4 = 100, under both
rule-3 semantics (R220, R222, R226, R238). -/
def Obligations.UniformGridScore : Prop :=
  ∀ (s : State) (b : Bool), 1 ≤ s.version.toNat → s.version.toNat ≤ 40 →
    (∀ r c, r < s.side → c < s.side → s.bitCell 0x4000 r c = b) →
    exec .score s = .next { s with
      r1 := BitVec.ofNat 32 (2 * s.side * (s.side - 2)), r2 := BitVec.ofNat 32 (3 * (s.side - 1) ^ 2), r3 := 0,
      r4 := 100, penalty := BitVec.ofNat 32 (2 * s.side * (s.side - 2) + 3 * (s.side - 1) ^ 2 + 100),
      pendcmd := none, done := true, draws := s.draws + 1 }

/-- Rule 1 is the sum over the N rows and the N columns of the grid of what the run counter gives the line: L - 2 for
every maximal run of length L ≥ 5 (R217, R220). -/
def Obligations.RunCounterCountsMaximalRuns : Prop :=
  ∀ (n : Nat) (g : Grid),
    rule1 n g = (((List.range n).map fun r => (List.range n).map fun c => gridCell g r c) ++
        ((List.range n).map fun c => (List.range n).map fun r => gridCell g r c)
      |>.map fun line => ((line.splitBy (· == ·)).map fun run => if 5 ≤ run.length then run.length - 2 else 0).sum).sum

/-- What strip deletes and what count counts, for P1 = 00001011101, P2 = 10111010000 and any other pattern: when no match
starts inside `a`, strip of a ++ P ++ b deletes that P, keeps `a` and goes on with `b` alone, and count counts it and goes
on with `b`; a line without a match is kept, and counts 0. line3 is what the two strips remove divided by 11, exactly, or
under COUNT the sum of the two counts, and rule 3 is 40 times its sum over the rows and columns (R223, R224). -/
def Obligations.StripRemovesWholeMatches : Prop :=
  patternP1 = [false, false, false, false, true, false, true, true, true, false, true] ∧
  patternP2 = [true, false, true, true, true, false, true, false, false, false, false] ∧
  (∀ p a b : List Bool, p ≠ [] → (∀ k, k < a.length → ¬ p <+: (a ++ p ++ b).drop k) →
    strip p (a ++ p ++ b) = a ++ strip p b ∧ countFrom p 0 (a ++ p ++ b) = 1 + countFrom p 0 b) ∧
  (∀ p s : List Bool, p ≠ [] → ¬ p <:+: s → strip p s = s ∧ countFrom p 0 s = 0) ∧
  (∀ s : List Bool,
    (strip patternP2 (strip patternP1 s)).length + 11 * line3 .strip s = s.length ∧
    line3 .count s = countFrom patternP1 0 s + countFrom patternP2 0 s) ∧
  ∀ (sem : Config.Rule3Semantics) (n : Nat) (g : Grid),
    rule3 sem n g = 40 * (((List.range n).map fun r => (List.range n).map fun c => gridCell g r c) ++
        ((List.range n).map fun c => (List.range n).map fun r => gridCell g r c)
      |>.map (line3 sem)).sum

/-- Rule 4 of a grid is the penalty of its dark cells among its N·N cells; the penalty of dark and total is
|10 - (20·dark) div total|·10, which is also (|50 - rounded| div 5)·10 with rounded = 5·((20·dark) div total), and the same
when 100·dark/total is truncated first; it is 0 exactly in the band 50 to 55, and 100 when all cells are light or all dark
(R226). -/
def Obligations.DarkRatioForms : Prop :=
  (∀ (n : Nat) (g : Grid),
    rule4 n g = darkPenalty ((List.range n).map fun r => (List.range n).countP fun c => gridCell g r c).sum (n * n)) ∧
  ∀ dark total : Nat, 0 < total → dark ≤ total →
    darkPenalty dark total = ((10 : Int) - ((20 * dark / total : Nat) : Int)).natAbs * 10 ∧
    darkPenalty dark total = ((50 : Int) - ((5 * (20 * dark / total) : Nat) : Int)).natAbs / 5 * 10 ∧
    darkPenalty dark total = ((10 : Int) - ((100 * dark / total / 5 : Nat) : Int)).natAbs * 10 ∧
    (50 * total ≤ 100 * dark ∧ 100 * dark < 55 * total ↔ darkPenalty dark total = 0) ∧
    (dark = 0 ∨ dark = total → darkPenalty dark total = 100)

/-- The four penalties of a grid with N ≤ 177 keep R44's bounds, rule 3's for RULE3_SEMANTICS = STRIP, and the sum is
at most 381,538; under COUNT rule 3 is at most twice that bound (log 14). -/
def Obligations.ScoresStayInBounds : Prop :=
  ∀ (n : Nat) (g : Grid), n ≤ 177 →
    rule1 n g ≤ 61950 ∧ rule2 n g ≤ 92928 ∧ rule3 .strip n g ≤ 226560 ∧ rule4 n g ≤ 100 ∧
    rule1 n g + rule2 n g + rule3 .strip n g + rule4 n g ≤ 381538 ∧ rule3 .count n g ≤ 2 * 226560

/-- What MASK_EVAL, MASK_SELECT and SCORE compute does not depend on CW, DESC, GEN or the other registers: two states
that agree on VERSION, FMT, TMPL, SHADOW (for SCORE, REAL), the parameters and the free values get the same penalties
and the same grid (R210). -/
def Obligations.MaskUnitReadsOnlyItsInputs : Prop :=
  ∀ (m : BitVec 3) (s s' : State), s.version = s'.version → s.fmt = s'.fmt → s.params = s'.params →
    s.draws = s'.draws → 1 ≤ s.version.toNat → s.version.toNat ≤ 40 →
    ((∀ a, 0x2000 ≤ a ∧ a ≤ 0x3FFF ∨ 0x8000 ≤ a ∧ a ≤ 0xBFFF → s.ram.read? a = s'.ram.read? a) → s.tmplOk = true →
      ∃ t t' u u', exec (.maskEval m) s = .next t ∧ exec (.maskEval m) s' = .next t' ∧
        exec .maskSelect s = .next u ∧ exec .maskSelect s' = .next u' ∧
        t.r1 = t'.r1 ∧ t.r2 = t'.r2 ∧ t.r3 = t'.r3 ∧ t.r4 = t'.r4 ∧ t.penalty = t'.penalty ∧
        u.pen = u'.pen ∧ u.best = u'.best ∧ u.penalty = u'.penalty ∧
        u.r1 = u'.r1 ∧ u.r2 = u'.r2 ∧ u.r3 = u'.r3 ∧ u.r4 = u'.r4 ∧
        (∀ r c, r < s.side → c < s.side →
          t.bitCell 0x4000 r c = t'.bitCell 0x4000 r c ∧ u.bitCell 0x4000 r c = u'.bitCell 0x4000 r c)) ∧
    ((∀ a, 0x4000 ≤ a ∧ a ≤ 0x5FFF → s.ram.read? a = s'.ram.read? a) →
      ∃ t t', exec .score s = .next t ∧ exec .score s' = .next t' ∧
        t.r1 = t'.r1 ∧ t.r2 = t'.r2 ∧ t.r3 = t'.r3 ∧ t.r4 = t'.r4 ∧ t.penalty = t'.penalty)

/-! ## Invariants that every step keeps -/

/-- The RAM stays in canonical form and inside the RAM windows: no command's access leaves its region (R61, R67). -/
def Obligations.StepKeepsRamInv : Prop := ∀ s t : State, RamInv s → step s = .next t → RamInv t

/-- GEN always holds the generator polynomial of degree GEN_DEG while GEN_VALID = 1, and zeros before (R46, R152). -/
def Obligations.StepKeepsGenInv : Prop := ∀ s t : State, GenInv s → step s = .next t → GenInv t

/-- DONE is 0 while BUSY is 1, ERRCODE is a listed code and nonzero while ERR = 1, BEST is 0 until valid, PLACE_BITS
never exceeds PLACE_CAP, nor PLACE_CAP 31,152 (R24, R25, R190, R261, R311). -/
def Obligations.StepKeepsRegisterInv : Prop := ∀ s t : State, RegisterInv s → step s = .next t → RegisterInv t

/-- PENALTY is always the sum of R1 to R4, below 2^19 under STRIP, below 2^20 under COUNT (R32, R44; log 14). -/
def Obligations.StepKeepsPenaltyInv : Prop := ∀ s t : State, PenaltyInv s → step s = .next t → PenaltyInv t

/-- Every invariant holds after a hardware reset. -/
def Obligations.InvariantsHoldAtReset : Prop :=
  RamInv State.reset ∧ GenInv State.reset ∧ RegisterInv State.reset ∧ PenaltyInv State.reset

/-! ## Reset (70_reset_and_hazards.md) -/

/-- A hardware reset puts any state into the reset state: every register of Table 10-1 at its reset value, GEN all 0,
PENDCMD empty, no RAM byte written, IRQ 0; only the model's own parameters, inputs and draw counter go on (R47, R290). -/
def Obligations.HardResetLeavesResetValues : Prop :=
  ∀ (s : State) (rest : List Input), ∃ t, step { s with inputs := .hardReset :: rest } = .next t ∧
    t = { State.reset with params := s.params, inputs := rest, draws := s.draws + 1 } ∧
    t.ctrlWord = 0 ∧ t.statusWord = 0 ∧ t.errcode = 0x00 ∧ t.result = 0x00 ∧ t.version = 1 ∧ t.side = 21 ∧
    t.blkCount = 0 ∧ t.genDeg = 0 ∧ t.penalty = 0 ∧ t.r1 = 0 ∧ t.r2 = 0 ∧ t.r3 = 0 ∧ t.r4 = 0 ∧ t.best = 0 ∧
    t.pen = Vector.replicate 8 0 ∧ t.fmt = Vector.replicate 8 0 ∧ t.placeCap = 0 ∧ t.placeBits = 0 ∧
    t.gen = Vector.replicate 256 0x00 ∧ t.pendcmd = none ∧ t.irq = false ∧ t.ram = []

/-- A write of CTRL with SRST = 1 while IDLE puts every register at its reset value, IE included, and keeps all RAM; with
SRST = 0 it writes IE alone, busy or not (R23, R68, R291). -/
def Obligations.CtrlWriteWhileIdle : Prop :=
  ∀ (s : State) (v : Word) (rest : List Input),
    (v.getLsbD 1 = true →
      step { s with pendcmd := none, inputs := hostWR 0x004 v :: rest } =
        .next { State.reset with params := s.params, ram := s.ram, inputs := rest,
                                 response := some { status := .okay, data := none }, draws := s.draws + 1 }) ∧
    (v.getLsbD 1 = false →
      step { s with inputs := hostWR 0x004 v :: rest } =
        .next ({ s with ie := v.getLsbD 0, inputs := rest }.afterOkay none))

/-- A soft reset while RUNNING abandons the command: every register is at its reset value, DONE and ERR are 0, the engine
is IDLE, and RAM outside the command's destination is kept: for RS_ENC every byte outside CW[EOFF .. EOFF+GEN_DEG-1],
for PLACE (base SHADOW), MASK_EVAL and MASK_SELECT (base REAL) every written cell outside the N×N grid, for every other
word all RAM. The parity bytes of an abandoned RS_ENC are unwritten again (R291). -/
def Obligations.SoftResetAbandonsCommand : Prop :=
  ∀ (s : State) (w v : Word) (rest : List Input), v.getLsbD 1 = true →
    ∃ t, step { s with pendcmd := some w, inputs := hostWR 0x004 v :: rest } = .next t ∧
      t = { State.reset with params := s.params, ram := t.ram, inputs := rest,
                             response := some { status := .okay, data := none }, draws := s.draws + 1 } ∧
      (∀ blk : BitVec 8, decode w = .ok (.rsEnc blk) →
        (∀ a, a < 0x1000 + (s.descriptor blk.toNat).eoff ∨
            0x1000 + (s.descriptor blk.toNat).eoff + s.genDeg.toNat ≤ a → t.ram.read? a = s.ram.read? a) ∧
        (∀ k, blk.toNat < 128 → k < s.genDeg.toNat → (s.descriptor blk.toNat).eoff + k < 4096 →
          t.ram.read? (0x1000 + (s.descriptor blk.toNat).eoff + k) = none)) ∧
      (∀ base : Nat, (decode w = .ok .place ∧ base = 0x2000) ∨
          ((∃ m, decode w = .ok (.maskEval m)) ∧ base = 0x4000) ∨ (decode w = .ok .maskSelect ∧ base = 0x4000) →
        (∀ a, a < base ∨ base + 0x2000 ≤ a → t.ram.read? a = s.ram.read? a) ∧
        (∀ r c, r < 256 → c < 256 → ¬(r < s.side ∧ c < s.side) → s.ram.read? (base + 32 * r + c / 8) ≠ none →
          t.bitCell base r c = s.bitCell base r c)) ∧
      ((∀ blk, decode w ≠ .ok (.rsEnc blk)) → decode w ≠ .ok .place → (∀ m, decode w ≠ .ok (.maskEval m)) →
        decode w ≠ .ok .maskSelect → t.ram = s.ram)

/-! ## The bus (20_memory.md, 10_state.md) -/

/-- An access that is not 32 bits wide or not at a multiple of 4 gets ERROR, a read returns 0, and only the error record
changes: E_BUS (R63). -/
def Obligations.BadAccessIsBusError : Prop :=
  ∀ (s : State) (off : BitVec 16) (n : Nat) (v : Word) (rest : List Input), n ≠ 4 ∨ off.toNat % 4 ≠ 0 →
    step { s with inputs := .access { offset := off, count := n, dir := .read } :: rest } =
      .next ({ s with inputs := rest }.afterBusError 0x03 (some 0)) ∧
    step { s with inputs := .access { offset := off, count := n, dir := .write v } :: rest } =
      .next ({ s with inputs := rest }.afterBusError 0x03 none)

/-- A 32-bit aligned access to a reserved offset of Table 20-1 gets ERROR, a read returns 0, and only the error record
changes, busy or not (R64). -/
def Obligations.ReservedOffsetsAreBusErrors : Prop :=
  ∀ (s : State) (off : BitVec 16) (v : Word) (rest : List Input), off.toNat % 4 = 0 →
    (0x0088 ≤ off.toNat ∧ off.toNat ≤ 0x00FF) ∨ (0x0500 ≤ off.toNat ∧ off.toNat ≤ 0x07FF) ∨
      (0x0C00 ≤ off.toNat ∧ off.toNat ≤ 0x0FFF) ∨ (0x6000 ≤ off.toNat ∧ off.toNat ≤ 0x7FFF) ∨ 0xC000 ≤ off.toNat →
    step { s with inputs := hostRD off :: rest } = .next ({ s with inputs := rest }.afterBusError 0x03 (some 0)) ∧
    step { s with inputs := hostWR off v :: rest } = .next ({ s with inputs := rest }.afterBusError 0x03 none)

/-- An OKAY read changes no state: at every aligned offset that is not reserved a read only answers (R66). -/
def Obligations.ReadsHaveNoSideEffect : Prop :=
  ∀ (s : State) (off : BitVec 16) (rest : List Input), off.toNat % 4 = 0 →
    off.toNat ≤ 0x0087 ∨ (0x0100 ≤ off.toNat ∧ off.toNat ≤ 0x04FF) ∨ (0x0800 ≤ off.toNat ∧ off.toNat ≤ 0x0BFF) ∨
      (0x1000 ≤ off.toNat ∧ off.toNat ≤ 0x5FFF) ∨ (0x8000 ≤ off.toNat ∧ off.toNat ≤ 0xBFFF) →
    ∃ v, step { s with inputs := hostRD off :: rest } = .next ({ s with inputs := rest }.afterOkay (some v))

/-- A word written to a RAM window while IDLE is stored whole, the next read of it returns it, and every other RAM byte
stays; a command reads from a written byte the last value written to it (R62, R65). -/
def Obligations.RamWordReadBack : Prop :=
  (∀ (s : State) (a : Nat) (b : Byte), s.ram.read? a = some b → s.byteAt a = b) ∧
  ∀ (s : State) (off : BitVec 16) (v : Word) (rest : List Input), s.pendcmd = none → off.toNat % 4 = 0 →
    (0x0800 ≤ off.toNat ∧ off.toNat ≤ 0x0BFF) ∨ (0x1000 ≤ off.toNat ∧ off.toNat ≤ 0x5FFF) ∨
      (0x8000 ≤ off.toNat ∧ off.toNat ≤ 0xBFFF) →
    ∃ t, step { s with inputs := hostWR off v :: hostRD off :: rest } = .next t ∧
      t = { s with ram := t.ram, inputs := hostRD off :: rest }.afterOkay none ∧
      (∀ k, k < 4 → t.ram.read? (off.toNat + k) = some (v.extractLsb' (8 * k) 8)) ∧
      (∀ a, a < off.toNat ∨ off.toNat + 4 ≤ a → t.ram.read? a = s.ram.read? a) ∧
      step t = .next ({ t with inputs := rest }.afterOkay (some v))

/-- While BUSY = 1, a write to VERSION, BLK_COUNT, FMT, DESC, CW, SHADOW, REAL or TMPL is dropped: ERROR and
E_ACCESS_BUSY, nothing else (R68, R301). -/
def Obligations.BusyWritesAreDropped : Prop :=
  ∀ (s : State) (w v : Word) (off : BitVec 16) (rest : List Input), off.toNat % 4 = 0 →
    off.toNat = 0x018 ∨ off.toNat = 0x020 ∨ (0x060 ≤ off.toNat ∧ off.toNat ≤ 0x07F) ∨
      (0x0800 ≤ off.toNat ∧ off.toNat ≤ 0x0BFF) ∨ (0x1000 ≤ off.toNat ∧ off.toNat ≤ 0x5FFF) ∨
      (0x8000 ≤ off.toNat ∧ off.toNat ≤ 0xBFFF) →
    step { s with pendcmd := some w, inputs := hostWR off v :: rest } =
      .next ({ s with pendcmd := some w, inputs := rest }.afterBusError 0x04 none)

/-- Writes to read-only registers, the GEN window and the EXP and LOG tables are ignored with OKAY, busy or not (R29). -/
def Obligations.ReadOnlyWritesIgnored : Prop :=
  ∀ (s : State) (off : BitVec 16) (v : Word) (rest : List Input), off.toNat % 4 = 0 →
    off.toNat = 0x000 ∨ off.toNat = 0x00C ∨ off.toNat = 0x014 ∨ off.toNat = 0x01C ∨
      (0x024 ≤ off.toNat ∧ off.toNat ≤ 0x05F) ∨ off.toNat = 0x080 ∨ off.toNat = 0x084 ∨
      (0x0100 ≤ off.toNat ∧ off.toNat ≤ 0x04FF) →
    step { s with inputs := hostWR off v :: rest } = .next ({ s with inputs := rest }.afterOkay none)

/-- A write of STATUS clears DONE and ERR where bits 1 and 2 are 1, and changes no other bit or register, busy or not
(R24, R68). -/
def Obligations.StatusWriteOneToClear : Prop :=
  ∀ (s : State) (v : Word) (rest : List Input),
    step { s with inputs := hostWR 0x008 v :: rest } =
      .next ({ s with done := s.done && !v.getLsbD 1, err := s.err && !v.getLsbD 2, inputs := rest }.afterOkay none)

/-- Writes of the configuration registers while IDLE keep the listed bits alone, and SIZE then reads 17 + 4·V (R28, R30,
R34). -/
def Obligations.ConfigurationWrites : Prop :=
  ∀ (s : State) (v : Word) (m : BitVec 3) (rest : List Input), s.pendcmd = none →
    step { s with inputs := hostWR 0x018 v :: rest } =
      .next ({ s with version := v.setWidth 6, inputs := rest }.afterOkay none) ∧
    step { s with version := v.setWidth 6, inputs := hostRD 0x01C :: rest } =
      .next ({ s with version := v.setWidth 6, inputs := rest }.afterOkay (some (BitVec.ofNat 32 (17 + 4 * (v.toNat % 64))))) ∧
    step { s with inputs := hostWR 0x020 v :: rest } =
      .next ({ s with blkCount := v.setWidth 8, inputs := rest }.afterOkay none) ∧
    step { s with inputs := hostWR (BitVec.ofNat 16 (0x060 + 4 * m.toNat)) v :: rest } =
      .next ({ s with fmt := s.fmt.set m.toNat (v.setWidth 15) m.isLt, inputs := rest }.afterOkay none)

/-- What reads of the register window return, offset by offset: ID, CTRL, STATUS, ERRCODE, CMD, VERSION, SIZE, BLK_COUNT
and FMT exactly in every state, busy or not, and the result registers exactly while IDLE (Table 10-1, R22 to R35, R68). -/
def Obligations.RegisterReads : Prop :=
  ∀ (s : State) (m : BitVec 3) (rest : List Input),
    (∀ x ∈ [((0x000 : BitVec 16), (0x51520001 : Word)), (0x004, (BitVec.ofBool s.ie).setWidth 32),
        (0x008, BitVec.ofNat 32 (s.busy.toNat + 2 * s.done.toNat + 4 * s.err.toNat + 8 * s.genValid.toNat +
          16 * s.bestValid.toNat)),
        (0x00C, s.errcode.setWidth 32), (0x010, 0), (0x018, s.version.setWidth 32),
        (0x01C, BitVec.ofNat 32 (17 + 4 * s.version.toNat)), (0x020, s.blkCount.setWidth 32),
        (BitVec.ofNat 16 (0x060 + 4 * m.toNat), (s.fmt[m.toNat]'m.isLt).setWidth 32)],
      step { s with inputs := hostRD x.1 :: rest } = .next ({ s with inputs := rest }.afterOkay (some x.2))) ∧
    (s.pendcmd = none →
      ∀ x ∈ [((0x014 : BitVec 16), s.result.setWidth 32), (0x024, s.genDeg.setWidth 32), (0x028, s.penalty),
        (0x02C, s.r1), (0x030, s.r2), (0x034, s.r3), (0x038, s.r4), (0x03C, s.best.setWidth 32),
        (BitVec.ofNat 16 (0x040 + 4 * m.toNat), s.pen[m.toNat]'m.isLt),
        (0x080, s.placeCap.setWidth 32), (0x084, s.placeBits.setWidth 32)],
      step { s with inputs := hostRD x.1 :: rest } = .next ({ s with inputs := rest }.afterOkay (some x.2)))

/-- What reads of the GEN, EXP and LOG windows return: GEN[j] while IDLE, α^(i mod 255) for i ≤ 510 and 0x00 for 511,
and for a ≠ 0 the exponent of a, for 0 the byte 0x00; four bytes a word, little-endian (R36, R37, R38, R62). -/
def Obligations.TableReads : Prop :=
  ∀ (s : State) (k : Nat) (rest : List Input), k < 4 →
    (∀ j, j < 64 → s.pendcmd = none → ∃ v : Word,
      step { s with inputs := hostRD (BitVec.ofNat 16 (0x100 + 4 * j)) :: rest } =
        .next ({ s with inputs := rest }.afterOkay (some v)) ∧ v.extractLsb' (8 * k) 8 = s.gen.toList.getD (4 * j + k) 0) ∧
    (∀ j, j < 128 → ∃ v : Word,
      step { s with inputs := hostRD (BitVec.ofNat 16 (0x200 + 4 * j)) :: rest } =
        .next ({ s with inputs := rest }.afterOkay (some v)) ∧
      v.extractLsb' (8 * k) 8 = if 4 * j + k ≤ 510 then alphaPow ((4 * j + k) % 255) else 0x00) ∧
    (∀ j, j < 64 → ∃ v : Word,
      step { s with inputs := hostRD (BitVec.ofNat 16 (0x400 + 4 * j)) :: rest } =
        .next ({ s with inputs := rest }.afterOkay (some v)) ∧
      (4 * j + k = 0 → v.extractLsb' (8 * k) 8 = 0x00) ∧
      (0 < 4 * j + k → (v.extractLsb' (8 * k) 8).toNat ≤ 254 ∧
        alphaPow (v.extractLsb' (8 * k) 8).toNat = BitVec.ofNat 8 (4 * j + k)))

/-- The assembler never truncates: it gives a word exactly when every operand fits, and then the word decodes to the
command with those operands (R96). -/
def Obligations.AssemblerRefusesMisfits : Prop :=
  ∀ c : AsmCommand, (c.fits = true → ∃ w i, assemble c = some w ∧ decode w = .ok i ∧ i.asm = c) ∧
    (c.fits = false → assemble c = none)
end

