-- ==== Sys2Proof/Laws/State.lean ====
section
/-! SUPPORT. What each named update of the state leaves in each field: one lemma per field and update, so that no later
proof unfolds a record update. -/

namespace Sys2Proof.Machine

/-! ## `State.setByte` -/

@[simp] theorem State.setByte_params (s : State) (a : Nat) (b : Byte) : (s.setByte a b).params = s.params := rfl
@[simp] theorem State.setByte_ie (s : State) (a : Nat) (b : Byte) : (s.setByte a b).ie = s.ie := rfl
@[simp] theorem State.setByte_done (s : State) (a : Nat) (b : Byte) : (s.setByte a b).done = s.done := rfl
@[simp] theorem State.setByte_err (s : State) (a : Nat) (b : Byte) : (s.setByte a b).err = s.err := rfl
@[simp] theorem State.setByte_genValid (s : State) (a : Nat) (b : Byte) : (s.setByte a b).genValid = s.genValid := rfl
@[simp] theorem State.setByte_bestValid (s : State) (a : Nat) (b : Byte) : (s.setByte a b).bestValid = s.bestValid := rfl
@[simp] theorem State.setByte_errcode (s : State) (a : Nat) (b : Byte) : (s.setByte a b).errcode = s.errcode := rfl
@[simp] theorem State.setByte_pendcmd (s : State) (a : Nat) (b : Byte) : (s.setByte a b).pendcmd = s.pendcmd := rfl
@[simp] theorem State.setByte_result (s : State) (a : Nat) (b : Byte) : (s.setByte a b).result = s.result := rfl
@[simp] theorem State.setByte_version (s : State) (a : Nat) (b : Byte) : (s.setByte a b).version = s.version := rfl
@[simp] theorem State.setByte_blkCount (s : State) (a : Nat) (b : Byte) : (s.setByte a b).blkCount = s.blkCount := rfl
@[simp] theorem State.setByte_genDeg (s : State) (a : Nat) (b : Byte) : (s.setByte a b).genDeg = s.genDeg := rfl
@[simp] theorem State.setByte_penalty (s : State) (a : Nat) (b : Byte) : (s.setByte a b).penalty = s.penalty := rfl
@[simp] theorem State.setByte_r1 (s : State) (a : Nat) (b : Byte) : (s.setByte a b).r1 = s.r1 := rfl
@[simp] theorem State.setByte_r2 (s : State) (a : Nat) (b : Byte) : (s.setByte a b).r2 = s.r2 := rfl
@[simp] theorem State.setByte_r3 (s : State) (a : Nat) (b : Byte) : (s.setByte a b).r3 = s.r3 := rfl
@[simp] theorem State.setByte_r4 (s : State) (a : Nat) (b : Byte) : (s.setByte a b).r4 = s.r4 := rfl
@[simp] theorem State.setByte_best (s : State) (a : Nat) (b : Byte) : (s.setByte a b).best = s.best := rfl
@[simp] theorem State.setByte_pen (s : State) (a : Nat) (b : Byte) : (s.setByte a b).pen = s.pen := rfl
@[simp] theorem State.setByte_fmt (s : State) (a : Nat) (b : Byte) : (s.setByte a b).fmt = s.fmt := rfl
@[simp] theorem State.setByte_placeCap (s : State) (a : Nat) (b : Byte) : (s.setByte a b).placeCap = s.placeCap := rfl
@[simp] theorem State.setByte_placeBits (s : State) (a : Nat) (b : Byte) : (s.setByte a b).placeBits = s.placeBits := rfl
@[simp] theorem State.setByte_gen (s : State) (a : Nat) (b : Byte) : (s.setByte a b).gen = s.gen := rfl
@[simp] theorem State.setByte_ram (s : State) (a : Nat) (b : Byte) : (s.setByte a b).ram = s.ram.write a b := rfl
@[simp] theorem State.setByte_inputs (s : State) (a : Nat) (b : Byte) : (s.setByte a b).inputs = s.inputs := rfl
@[simp] theorem State.setByte_response (s : State) (a : Nat) (b : Byte) : (s.setByte a b).response = s.response := rfl
@[simp] theorem State.setByte_draws (s : State) (a : Nat) (b : Byte) : (s.setByte a b).draws = s.draws := rfl

/-! ## `State.recordError` -/

@[simp] theorem State.recordError_params (s : State) (e : ErrCode) : (s.recordError e).params = s.params := rfl
@[simp] theorem State.recordError_ie (s : State) (e : ErrCode) : (s.recordError e).ie = s.ie := rfl
@[simp] theorem State.recordError_done (s : State) (e : ErrCode) : (s.recordError e).done = s.done := rfl
@[simp] theorem State.recordError_err (s : State) (e : ErrCode) : (s.recordError e).err = true := rfl
@[simp] theorem State.recordError_genValid (s : State) (e : ErrCode) : (s.recordError e).genValid = s.genValid := rfl
@[simp] theorem State.recordError_bestValid (s : State) (e : ErrCode) : (s.recordError e).bestValid = s.bestValid := rfl
@[simp] theorem State.recordError_errcode (s : State) (e : ErrCode) : (s.recordError e).errcode = e.code := rfl
@[simp] theorem State.recordError_pendcmd (s : State) (e : ErrCode) : (s.recordError e).pendcmd = s.pendcmd := rfl
@[simp] theorem State.recordError_result (s : State) (e : ErrCode) : (s.recordError e).result = s.result := rfl
@[simp] theorem State.recordError_version (s : State) (e : ErrCode) : (s.recordError e).version = s.version := rfl
@[simp] theorem State.recordError_blkCount (s : State) (e : ErrCode) : (s.recordError e).blkCount = s.blkCount := rfl
@[simp] theorem State.recordError_genDeg (s : State) (e : ErrCode) : (s.recordError e).genDeg = s.genDeg := rfl
@[simp] theorem State.recordError_penalty (s : State) (e : ErrCode) : (s.recordError e).penalty = s.penalty := rfl
@[simp] theorem State.recordError_r1 (s : State) (e : ErrCode) : (s.recordError e).r1 = s.r1 := rfl
@[simp] theorem State.recordError_r2 (s : State) (e : ErrCode) : (s.recordError e).r2 = s.r2 := rfl
@[simp] theorem State.recordError_r3 (s : State) (e : ErrCode) : (s.recordError e).r3 = s.r3 := rfl
@[simp] theorem State.recordError_r4 (s : State) (e : ErrCode) : (s.recordError e).r4 = s.r4 := rfl
@[simp] theorem State.recordError_best (s : State) (e : ErrCode) : (s.recordError e).best = s.best := rfl
@[simp] theorem State.recordError_pen (s : State) (e : ErrCode) : (s.recordError e).pen = s.pen := rfl
@[simp] theorem State.recordError_fmt (s : State) (e : ErrCode) : (s.recordError e).fmt = s.fmt := rfl
@[simp] theorem State.recordError_placeCap (s : State) (e : ErrCode) : (s.recordError e).placeCap = s.placeCap := rfl
@[simp] theorem State.recordError_placeBits (s : State) (e : ErrCode) : (s.recordError e).placeBits = s.placeBits := rfl
@[simp] theorem State.recordError_gen (s : State) (e : ErrCode) : (s.recordError e).gen = s.gen := rfl
@[simp] theorem State.recordError_ram (s : State) (e : ErrCode) : (s.recordError e).ram = s.ram := rfl
@[simp] theorem State.recordError_inputs (s : State) (e : ErrCode) : (s.recordError e).inputs = s.inputs := rfl
@[simp] theorem State.recordError_response (s : State) (e : ErrCode) : (s.recordError e).response = s.response := rfl
@[simp] theorem State.recordError_draws (s : State) (e : ErrCode) : (s.recordError e).draws = s.draws := rfl

/-! ## `State.completeOk` -/

@[simp] theorem State.completeOk_params (s : State) : (s.completeOk).params = s.params := rfl
@[simp] theorem State.completeOk_ie (s : State) : (s.completeOk).ie = s.ie := rfl
@[simp] theorem State.completeOk_done (s : State) : (s.completeOk).done = true := rfl
@[simp] theorem State.completeOk_err (s : State) : (s.completeOk).err = s.err := rfl
@[simp] theorem State.completeOk_genValid (s : State) : (s.completeOk).genValid = s.genValid := rfl
@[simp] theorem State.completeOk_bestValid (s : State) : (s.completeOk).bestValid = s.bestValid := rfl
@[simp] theorem State.completeOk_errcode (s : State) : (s.completeOk).errcode = s.errcode := rfl
@[simp] theorem State.completeOk_pendcmd (s : State) : (s.completeOk).pendcmd = none := rfl
@[simp] theorem State.completeOk_result (s : State) : (s.completeOk).result = s.result := rfl
@[simp] theorem State.completeOk_version (s : State) : (s.completeOk).version = s.version := rfl
@[simp] theorem State.completeOk_blkCount (s : State) : (s.completeOk).blkCount = s.blkCount := rfl
@[simp] theorem State.completeOk_genDeg (s : State) : (s.completeOk).genDeg = s.genDeg := rfl
@[simp] theorem State.completeOk_penalty (s : State) : (s.completeOk).penalty = s.penalty := rfl
@[simp] theorem State.completeOk_r1 (s : State) : (s.completeOk).r1 = s.r1 := rfl
@[simp] theorem State.completeOk_r2 (s : State) : (s.completeOk).r2 = s.r2 := rfl
@[simp] theorem State.completeOk_r3 (s : State) : (s.completeOk).r3 = s.r3 := rfl
@[simp] theorem State.completeOk_r4 (s : State) : (s.completeOk).r4 = s.r4 := rfl
@[simp] theorem State.completeOk_best (s : State) : (s.completeOk).best = s.best := rfl
@[simp] theorem State.completeOk_pen (s : State) : (s.completeOk).pen = s.pen := rfl
@[simp] theorem State.completeOk_fmt (s : State) : (s.completeOk).fmt = s.fmt := rfl
@[simp] theorem State.completeOk_placeCap (s : State) : (s.completeOk).placeCap = s.placeCap := rfl
@[simp] theorem State.completeOk_placeBits (s : State) : (s.completeOk).placeBits = s.placeBits := rfl
@[simp] theorem State.completeOk_gen (s : State) : (s.completeOk).gen = s.gen := rfl
@[simp] theorem State.completeOk_ram (s : State) : (s.completeOk).ram = s.ram := rfl
@[simp] theorem State.completeOk_inputs (s : State) : (s.completeOk).inputs = s.inputs := rfl
@[simp] theorem State.completeOk_response (s : State) : (s.completeOk).response = s.response := rfl
@[simp] theorem State.completeOk_draws (s : State) : (s.completeOk).draws = s.draws + 1 := rfl

/-! ## `State.completeErr` -/

@[simp] theorem State.completeErr_params (s : State) (e : ErrCode) : (s.completeErr e).params = s.params := rfl
@[simp] theorem State.completeErr_ie (s : State) (e : ErrCode) : (s.completeErr e).ie = s.ie := rfl
@[simp] theorem State.completeErr_done (s : State) (e : ErrCode) : (s.completeErr e).done = true := rfl
@[simp] theorem State.completeErr_err (s : State) (e : ErrCode) : (s.completeErr e).err = true := rfl
@[simp] theorem State.completeErr_genValid (s : State) (e : ErrCode) : (s.completeErr e).genValid = s.genValid := rfl
@[simp] theorem State.completeErr_bestValid (s : State) (e : ErrCode) : (s.completeErr e).bestValid = s.bestValid := rfl
@[simp] theorem State.completeErr_errcode (s : State) (e : ErrCode) : (s.completeErr e).errcode = e.code := rfl
@[simp] theorem State.completeErr_pendcmd (s : State) (e : ErrCode) : (s.completeErr e).pendcmd = none := rfl
@[simp] theorem State.completeErr_result (s : State) (e : ErrCode) : (s.completeErr e).result = s.result := rfl
@[simp] theorem State.completeErr_version (s : State) (e : ErrCode) : (s.completeErr e).version = s.version := rfl
@[simp] theorem State.completeErr_blkCount (s : State) (e : ErrCode) : (s.completeErr e).blkCount = s.blkCount := rfl
@[simp] theorem State.completeErr_genDeg (s : State) (e : ErrCode) : (s.completeErr e).genDeg = s.genDeg := rfl
@[simp] theorem State.completeErr_penalty (s : State) (e : ErrCode) : (s.completeErr e).penalty = s.penalty := rfl
@[simp] theorem State.completeErr_r1 (s : State) (e : ErrCode) : (s.completeErr e).r1 = s.r1 := rfl
@[simp] theorem State.completeErr_r2 (s : State) (e : ErrCode) : (s.completeErr e).r2 = s.r2 := rfl
@[simp] theorem State.completeErr_r3 (s : State) (e : ErrCode) : (s.completeErr e).r3 = s.r3 := rfl
@[simp] theorem State.completeErr_r4 (s : State) (e : ErrCode) : (s.completeErr e).r4 = s.r4 := rfl
@[simp] theorem State.completeErr_best (s : State) (e : ErrCode) : (s.completeErr e).best = s.best := rfl
@[simp] theorem State.completeErr_pen (s : State) (e : ErrCode) : (s.completeErr e).pen = s.pen := rfl
@[simp] theorem State.completeErr_fmt (s : State) (e : ErrCode) : (s.completeErr e).fmt = s.fmt := rfl
@[simp] theorem State.completeErr_placeCap (s : State) (e : ErrCode) : (s.completeErr e).placeCap = s.placeCap := rfl
@[simp] theorem State.completeErr_placeBits (s : State) (e : ErrCode) : (s.completeErr e).placeBits = s.placeBits := rfl
@[simp] theorem State.completeErr_gen (s : State) (e : ErrCode) : (s.completeErr e).gen = s.gen := rfl
@[simp] theorem State.completeErr_ram (s : State) (e : ErrCode) : (s.completeErr e).ram = s.ram := rfl
@[simp] theorem State.completeErr_inputs (s : State) (e : ErrCode) : (s.completeErr e).inputs = s.inputs := rfl
@[simp] theorem State.completeErr_response (s : State) (e : ErrCode) : (s.completeErr e).response = s.response := rfl
@[simp] theorem State.completeErr_draws (s : State) (e : ErrCode) : (s.completeErr e).draws = s.draws + 1 := rfl

/-! ## `State.accept` -/

@[simp] theorem State.accept_params (s : State) (w : Word) : (s.accept w).params = s.params := rfl
@[simp] theorem State.accept_ie (s : State) (w : Word) : (s.accept w).ie = s.ie := rfl
@[simp] theorem State.accept_done (s : State) (w : Word) : (s.accept w).done = false := rfl
@[simp] theorem State.accept_err (s : State) (w : Word) : (s.accept w).err = s.err := rfl
@[simp] theorem State.accept_genValid (s : State) (w : Word) : (s.accept w).genValid = s.genValid := rfl
@[simp] theorem State.accept_bestValid (s : State) (w : Word) : (s.accept w).bestValid = s.bestValid := rfl
@[simp] theorem State.accept_errcode (s : State) (w : Word) : (s.accept w).errcode = s.errcode := rfl
@[simp] theorem State.accept_pendcmd (s : State) (w : Word) : (s.accept w).pendcmd = some w := rfl
@[simp] theorem State.accept_result (s : State) (w : Word) : (s.accept w).result = s.result := rfl
@[simp] theorem State.accept_version (s : State) (w : Word) : (s.accept w).version = s.version := rfl
@[simp] theorem State.accept_blkCount (s : State) (w : Word) : (s.accept w).blkCount = s.blkCount := rfl
@[simp] theorem State.accept_genDeg (s : State) (w : Word) : (s.accept w).genDeg = s.genDeg := rfl
@[simp] theorem State.accept_penalty (s : State) (w : Word) : (s.accept w).penalty = s.penalty := rfl
@[simp] theorem State.accept_r1 (s : State) (w : Word) : (s.accept w).r1 = s.r1 := rfl
@[simp] theorem State.accept_r2 (s : State) (w : Word) : (s.accept w).r2 = s.r2 := rfl
@[simp] theorem State.accept_r3 (s : State) (w : Word) : (s.accept w).r3 = s.r3 := rfl
@[simp] theorem State.accept_r4 (s : State) (w : Word) : (s.accept w).r4 = s.r4 := rfl
@[simp] theorem State.accept_best (s : State) (w : Word) : (s.accept w).best = s.best := rfl
@[simp] theorem State.accept_pen (s : State) (w : Word) : (s.accept w).pen = s.pen := rfl
@[simp] theorem State.accept_fmt (s : State) (w : Word) : (s.accept w).fmt = s.fmt := rfl
@[simp] theorem State.accept_placeCap (s : State) (w : Word) : (s.accept w).placeCap = s.placeCap := rfl
@[simp] theorem State.accept_placeBits (s : State) (w : Word) : (s.accept w).placeBits = s.placeBits := rfl
@[simp] theorem State.accept_gen (s : State) (w : Word) : (s.accept w).gen = s.gen := rfl
@[simp] theorem State.accept_ram (s : State) (w : Word) : (s.accept w).ram = s.ram := rfl
@[simp] theorem State.accept_inputs (s : State) (w : Word) : (s.accept w).inputs = s.inputs := rfl
@[simp] theorem State.accept_response (s : State) (w : Word) : (s.accept w).response = s.response := rfl
@[simp] theorem State.accept_draws (s : State) (w : Word) : (s.accept w).draws = s.draws := rfl

/-! ## `State.respond` -/

@[simp] theorem State.respond_params (s : State) (st : BusStatus) (d : Option Word) : (s.respond st d).params = s.params := rfl
@[simp] theorem State.respond_ie (s : State) (st : BusStatus) (d : Option Word) : (s.respond st d).ie = s.ie := rfl
@[simp] theorem State.respond_done (s : State) (st : BusStatus) (d : Option Word) : (s.respond st d).done = s.done := rfl
@[simp] theorem State.respond_err (s : State) (st : BusStatus) (d : Option Word) : (s.respond st d).err = s.err := rfl
@[simp] theorem State.respond_genValid (s : State) (st : BusStatus) (d : Option Word) : (s.respond st d).genValid = s.genValid := rfl
@[simp] theorem State.respond_bestValid (s : State) (st : BusStatus) (d : Option Word) : (s.respond st d).bestValid = s.bestValid := rfl
@[simp] theorem State.respond_errcode (s : State) (st : BusStatus) (d : Option Word) : (s.respond st d).errcode = s.errcode := rfl
@[simp] theorem State.respond_pendcmd (s : State) (st : BusStatus) (d : Option Word) : (s.respond st d).pendcmd = s.pendcmd := rfl
@[simp] theorem State.respond_result (s : State) (st : BusStatus) (d : Option Word) : (s.respond st d).result = s.result := rfl
@[simp] theorem State.respond_version (s : State) (st : BusStatus) (d : Option Word) : (s.respond st d).version = s.version := rfl
@[simp] theorem State.respond_blkCount (s : State) (st : BusStatus) (d : Option Word) : (s.respond st d).blkCount = s.blkCount := rfl
@[simp] theorem State.respond_genDeg (s : State) (st : BusStatus) (d : Option Word) : (s.respond st d).genDeg = s.genDeg := rfl
@[simp] theorem State.respond_penalty (s : State) (st : BusStatus) (d : Option Word) : (s.respond st d).penalty = s.penalty := rfl
@[simp] theorem State.respond_r1 (s : State) (st : BusStatus) (d : Option Word) : (s.respond st d).r1 = s.r1 := rfl
@[simp] theorem State.respond_r2 (s : State) (st : BusStatus) (d : Option Word) : (s.respond st d).r2 = s.r2 := rfl
@[simp] theorem State.respond_r3 (s : State) (st : BusStatus) (d : Option Word) : (s.respond st d).r3 = s.r3 := rfl
@[simp] theorem State.respond_r4 (s : State) (st : BusStatus) (d : Option Word) : (s.respond st d).r4 = s.r4 := rfl
@[simp] theorem State.respond_best (s : State) (st : BusStatus) (d : Option Word) : (s.respond st d).best = s.best := rfl
@[simp] theorem State.respond_pen (s : State) (st : BusStatus) (d : Option Word) : (s.respond st d).pen = s.pen := rfl
@[simp] theorem State.respond_fmt (s : State) (st : BusStatus) (d : Option Word) : (s.respond st d).fmt = s.fmt := rfl
@[simp] theorem State.respond_placeCap (s : State) (st : BusStatus) (d : Option Word) : (s.respond st d).placeCap = s.placeCap := rfl
@[simp] theorem State.respond_placeBits (s : State) (st : BusStatus) (d : Option Word) : (s.respond st d).placeBits = s.placeBits := rfl
@[simp] theorem State.respond_gen (s : State) (st : BusStatus) (d : Option Word) : (s.respond st d).gen = s.gen := rfl
@[simp] theorem State.respond_ram (s : State) (st : BusStatus) (d : Option Word) : (s.respond st d).ram = s.ram := rfl
@[simp] theorem State.respond_inputs (s : State) (st : BusStatus) (d : Option Word) : (s.respond st d).inputs = s.inputs := rfl
@[simp] theorem State.respond_response (s : State) (st : BusStatus) (d : Option Word) : (s.respond st d).response = some { status := st, data := d } := rfl
@[simp] theorem State.respond_draws (s : State) (st : BusStatus) (d : Option Word) : (s.respond st d).draws = s.draws + 1 := rfl

/-! ## `State.writeStatus` -/

@[simp] theorem State.writeStatus_params (s : State) (v : Word) : (s.writeStatus v).params = s.params := rfl
@[simp] theorem State.writeStatus_ie (s : State) (v : Word) : (s.writeStatus v).ie = s.ie := rfl
@[simp] theorem State.writeStatus_done (s : State) (v : Word) : (s.writeStatus v).done = (s.done && !v.getLsbD 1) := rfl
@[simp] theorem State.writeStatus_err (s : State) (v : Word) : (s.writeStatus v).err = (s.err && !v.getLsbD 2) := rfl
@[simp] theorem State.writeStatus_genValid (s : State) (v : Word) : (s.writeStatus v).genValid = s.genValid := rfl
@[simp] theorem State.writeStatus_bestValid (s : State) (v : Word) : (s.writeStatus v).bestValid = s.bestValid := rfl
@[simp] theorem State.writeStatus_errcode (s : State) (v : Word) : (s.writeStatus v).errcode = s.errcode := rfl
@[simp] theorem State.writeStatus_pendcmd (s : State) (v : Word) : (s.writeStatus v).pendcmd = s.pendcmd := rfl
@[simp] theorem State.writeStatus_result (s : State) (v : Word) : (s.writeStatus v).result = s.result := rfl
@[simp] theorem State.writeStatus_version (s : State) (v : Word) : (s.writeStatus v).version = s.version := rfl
@[simp] theorem State.writeStatus_blkCount (s : State) (v : Word) : (s.writeStatus v).blkCount = s.blkCount := rfl
@[simp] theorem State.writeStatus_genDeg (s : State) (v : Word) : (s.writeStatus v).genDeg = s.genDeg := rfl
@[simp] theorem State.writeStatus_penalty (s : State) (v : Word) : (s.writeStatus v).penalty = s.penalty := rfl
@[simp] theorem State.writeStatus_r1 (s : State) (v : Word) : (s.writeStatus v).r1 = s.r1 := rfl
@[simp] theorem State.writeStatus_r2 (s : State) (v : Word) : (s.writeStatus v).r2 = s.r2 := rfl
@[simp] theorem State.writeStatus_r3 (s : State) (v : Word) : (s.writeStatus v).r3 = s.r3 := rfl
@[simp] theorem State.writeStatus_r4 (s : State) (v : Word) : (s.writeStatus v).r4 = s.r4 := rfl
@[simp] theorem State.writeStatus_best (s : State) (v : Word) : (s.writeStatus v).best = s.best := rfl
@[simp] theorem State.writeStatus_pen (s : State) (v : Word) : (s.writeStatus v).pen = s.pen := rfl
@[simp] theorem State.writeStatus_fmt (s : State) (v : Word) : (s.writeStatus v).fmt = s.fmt := rfl
@[simp] theorem State.writeStatus_placeCap (s : State) (v : Word) : (s.writeStatus v).placeCap = s.placeCap := rfl
@[simp] theorem State.writeStatus_placeBits (s : State) (v : Word) : (s.writeStatus v).placeBits = s.placeBits := rfl
@[simp] theorem State.writeStatus_gen (s : State) (v : Word) : (s.writeStatus v).gen = s.gen := rfl
@[simp] theorem State.writeStatus_ram (s : State) (v : Word) : (s.writeStatus v).ram = s.ram := rfl
@[simp] theorem State.writeStatus_inputs (s : State) (v : Word) : (s.writeStatus v).inputs = s.inputs := rfl
@[simp] theorem State.writeStatus_response (s : State) (v : Word) : (s.writeStatus v).response = s.response := rfl
@[simp] theorem State.writeStatus_draws (s : State) (v : Word) : (s.writeStatus v).draws = s.draws := rfl

/-! ## `State.setScores` -/

@[simp] theorem State.setScores_params (s : State) (x : Scores) : (s.setScores x).params = s.params := rfl
@[simp] theorem State.setScores_ie (s : State) (x : Scores) : (s.setScores x).ie = s.ie := rfl
@[simp] theorem State.setScores_done (s : State) (x : Scores) : (s.setScores x).done = s.done := rfl
@[simp] theorem State.setScores_err (s : State) (x : Scores) : (s.setScores x).err = s.err := rfl
@[simp] theorem State.setScores_genValid (s : State) (x : Scores) : (s.setScores x).genValid = s.genValid := rfl
@[simp] theorem State.setScores_bestValid (s : State) (x : Scores) : (s.setScores x).bestValid = s.bestValid := rfl
@[simp] theorem State.setScores_errcode (s : State) (x : Scores) : (s.setScores x).errcode = s.errcode := rfl
@[simp] theorem State.setScores_pendcmd (s : State) (x : Scores) : (s.setScores x).pendcmd = s.pendcmd := rfl
@[simp] theorem State.setScores_result (s : State) (x : Scores) : (s.setScores x).result = s.result := rfl
@[simp] theorem State.setScores_version (s : State) (x : Scores) : (s.setScores x).version = s.version := rfl
@[simp] theorem State.setScores_blkCount (s : State) (x : Scores) : (s.setScores x).blkCount = s.blkCount := rfl
@[simp] theorem State.setScores_genDeg (s : State) (x : Scores) : (s.setScores x).genDeg = s.genDeg := rfl
@[simp] theorem State.setScores_penalty (s : State) (x : Scores) : (s.setScores x).penalty = BitVec.ofNat 32 (scoreTotal x) := rfl
@[simp] theorem State.setScores_r1 (s : State) (x : Scores) : (s.setScores x).r1 = BitVec.ofNat 32 x.s1 := rfl
@[simp] theorem State.setScores_r2 (s : State) (x : Scores) : (s.setScores x).r2 = BitVec.ofNat 32 x.s2 := rfl
@[simp] theorem State.setScores_r3 (s : State) (x : Scores) : (s.setScores x).r3 = BitVec.ofNat 32 x.s3 := rfl
@[simp] theorem State.setScores_r4 (s : State) (x : Scores) : (s.setScores x).r4 = BitVec.ofNat 32 x.s4 := rfl
@[simp] theorem State.setScores_best (s : State) (x : Scores) : (s.setScores x).best = s.best := rfl
@[simp] theorem State.setScores_pen (s : State) (x : Scores) : (s.setScores x).pen = s.pen := rfl
@[simp] theorem State.setScores_fmt (s : State) (x : Scores) : (s.setScores x).fmt = s.fmt := rfl
@[simp] theorem State.setScores_placeCap (s : State) (x : Scores) : (s.setScores x).placeCap = s.placeCap := rfl
@[simp] theorem State.setScores_placeBits (s : State) (x : Scores) : (s.setScores x).placeBits = s.placeBits := rfl
@[simp] theorem State.setScores_gen (s : State) (x : Scores) : (s.setScores x).gen = s.gen := rfl
@[simp] theorem State.setScores_ram (s : State) (x : Scores) : (s.setScores x).ram = s.ram := rfl
@[simp] theorem State.setScores_inputs (s : State) (x : Scores) : (s.setScores x).inputs = s.inputs := rfl
@[simp] theorem State.setScores_response (s : State) (x : Scores) : (s.setScores x).response = s.response := rfl
@[simp] theorem State.setScores_draws (s : State) (x : Scores) : (s.setScores x).draws = s.draws := rfl

/-! ## `State.hardReset` -/

@[simp] theorem State.hardReset_params (s : State) : (s.hardReset).params = s.params := rfl
@[simp] theorem State.hardReset_ie (s : State) : (s.hardReset).ie = State.reset.ie := rfl
@[simp] theorem State.hardReset_done (s : State) : (s.hardReset).done = State.reset.done := rfl
@[simp] theorem State.hardReset_err (s : State) : (s.hardReset).err = State.reset.err := rfl
@[simp] theorem State.hardReset_genValid (s : State) : (s.hardReset).genValid = State.reset.genValid := rfl
@[simp] theorem State.hardReset_bestValid (s : State) : (s.hardReset).bestValid = State.reset.bestValid := rfl
@[simp] theorem State.hardReset_errcode (s : State) : (s.hardReset).errcode = State.reset.errcode := rfl
@[simp] theorem State.hardReset_pendcmd (s : State) : (s.hardReset).pendcmd = State.reset.pendcmd := rfl
@[simp] theorem State.hardReset_result (s : State) : (s.hardReset).result = State.reset.result := rfl
@[simp] theorem State.hardReset_version (s : State) : (s.hardReset).version = State.reset.version := rfl
@[simp] theorem State.hardReset_blkCount (s : State) : (s.hardReset).blkCount = State.reset.blkCount := rfl
@[simp] theorem State.hardReset_genDeg (s : State) : (s.hardReset).genDeg = State.reset.genDeg := rfl
@[simp] theorem State.hardReset_penalty (s : State) : (s.hardReset).penalty = State.reset.penalty := rfl
@[simp] theorem State.hardReset_r1 (s : State) : (s.hardReset).r1 = State.reset.r1 := rfl
@[simp] theorem State.hardReset_r2 (s : State) : (s.hardReset).r2 = State.reset.r2 := rfl
@[simp] theorem State.hardReset_r3 (s : State) : (s.hardReset).r3 = State.reset.r3 := rfl
@[simp] theorem State.hardReset_r4 (s : State) : (s.hardReset).r4 = State.reset.r4 := rfl
@[simp] theorem State.hardReset_best (s : State) : (s.hardReset).best = State.reset.best := rfl
@[simp] theorem State.hardReset_pen (s : State) : (s.hardReset).pen = State.reset.pen := rfl
@[simp] theorem State.hardReset_fmt (s : State) : (s.hardReset).fmt = State.reset.fmt := rfl
@[simp] theorem State.hardReset_placeCap (s : State) : (s.hardReset).placeCap = State.reset.placeCap := rfl
@[simp] theorem State.hardReset_placeBits (s : State) : (s.hardReset).placeBits = State.reset.placeBits := rfl
@[simp] theorem State.hardReset_gen (s : State) : (s.hardReset).gen = State.reset.gen := rfl
@[simp] theorem State.hardReset_ram (s : State) : (s.hardReset).ram = State.reset.ram := rfl
@[simp] theorem State.hardReset_inputs (s : State) : (s.hardReset).inputs = s.inputs := rfl
@[simp] theorem State.hardReset_response (s : State) : (s.hardReset).response = State.reset.response := rfl
@[simp] theorem State.hardReset_draws (s : State) : (s.hardReset).draws = s.draws + 1 := rfl

/-! ## `State.softReset` -/

@[simp] theorem State.softReset_params (s : State) : (s.softReset).params = s.params := rfl
@[simp] theorem State.softReset_ie (s : State) : (s.softReset).ie = State.reset.ie := rfl
@[simp] theorem State.softReset_done (s : State) : (s.softReset).done = State.reset.done := rfl
@[simp] theorem State.softReset_err (s : State) : (s.softReset).err = State.reset.err := rfl
@[simp] theorem State.softReset_genValid (s : State) : (s.softReset).genValid = State.reset.genValid := rfl
@[simp] theorem State.softReset_bestValid (s : State) : (s.softReset).bestValid = State.reset.bestValid := rfl
@[simp] theorem State.softReset_errcode (s : State) : (s.softReset).errcode = State.reset.errcode := rfl
@[simp] theorem State.softReset_pendcmd (s : State) : (s.softReset).pendcmd = State.reset.pendcmd := rfl
@[simp] theorem State.softReset_result (s : State) : (s.softReset).result = State.reset.result := rfl
@[simp] theorem State.softReset_version (s : State) : (s.softReset).version = State.reset.version := rfl
@[simp] theorem State.softReset_blkCount (s : State) : (s.softReset).blkCount = State.reset.blkCount := rfl
@[simp] theorem State.softReset_genDeg (s : State) : (s.softReset).genDeg = State.reset.genDeg := rfl
@[simp] theorem State.softReset_penalty (s : State) : (s.softReset).penalty = State.reset.penalty := rfl
@[simp] theorem State.softReset_r1 (s : State) : (s.softReset).r1 = State.reset.r1 := rfl
@[simp] theorem State.softReset_r2 (s : State) : (s.softReset).r2 = State.reset.r2 := rfl
@[simp] theorem State.softReset_r3 (s : State) : (s.softReset).r3 = State.reset.r3 := rfl
@[simp] theorem State.softReset_r4 (s : State) : (s.softReset).r4 = State.reset.r4 := rfl
@[simp] theorem State.softReset_best (s : State) : (s.softReset).best = State.reset.best := rfl
@[simp] theorem State.softReset_pen (s : State) : (s.softReset).pen = State.reset.pen := rfl
@[simp] theorem State.softReset_fmt (s : State) : (s.softReset).fmt = State.reset.fmt := rfl
@[simp] theorem State.softReset_placeCap (s : State) : (s.softReset).placeCap = State.reset.placeCap := rfl
@[simp] theorem State.softReset_placeBits (s : State) : (s.softReset).placeBits = State.reset.placeBits := rfl
@[simp] theorem State.softReset_gen (s : State) : (s.softReset).gen = State.reset.gen := rfl
@[simp] theorem State.softReset_ram (s : State) : (s.softReset).ram = s.abandonedRam := rfl
@[simp] theorem State.softReset_inputs (s : State) : (s.softReset).inputs = s.inputs := rfl
@[simp] theorem State.softReset_response (s : State) : (s.softReset).response = s.response := rfl
@[simp] theorem State.softReset_draws (s : State) : (s.softReset).draws = s.draws := rfl

/-! ## `State.setBitCell` -/

@[simp] theorem State.setBitCell_params (s : State) (base r c : Nat) (v : Bool) : (s.setBitCell base r c v).params = s.params := rfl
@[simp] theorem State.setBitCell_ie (s : State) (base r c : Nat) (v : Bool) : (s.setBitCell base r c v).ie = s.ie := rfl
@[simp] theorem State.setBitCell_done (s : State) (base r c : Nat) (v : Bool) : (s.setBitCell base r c v).done = s.done := rfl
@[simp] theorem State.setBitCell_err (s : State) (base r c : Nat) (v : Bool) : (s.setBitCell base r c v).err = s.err := rfl
@[simp] theorem State.setBitCell_genValid (s : State) (base r c : Nat) (v : Bool) : (s.setBitCell base r c v).genValid = s.genValid := rfl
@[simp] theorem State.setBitCell_bestValid (s : State) (base r c : Nat) (v : Bool) : (s.setBitCell base r c v).bestValid = s.bestValid := rfl
@[simp] theorem State.setBitCell_errcode (s : State) (base r c : Nat) (v : Bool) : (s.setBitCell base r c v).errcode = s.errcode := rfl
@[simp] theorem State.setBitCell_pendcmd (s : State) (base r c : Nat) (v : Bool) : (s.setBitCell base r c v).pendcmd = s.pendcmd := rfl
@[simp] theorem State.setBitCell_result (s : State) (base r c : Nat) (v : Bool) : (s.setBitCell base r c v).result = s.result := rfl
@[simp] theorem State.setBitCell_version (s : State) (base r c : Nat) (v : Bool) : (s.setBitCell base r c v).version = s.version := rfl
@[simp] theorem State.setBitCell_blkCount (s : State) (base r c : Nat) (v : Bool) : (s.setBitCell base r c v).blkCount = s.blkCount := rfl
@[simp] theorem State.setBitCell_genDeg (s : State) (base r c : Nat) (v : Bool) : (s.setBitCell base r c v).genDeg = s.genDeg := rfl
@[simp] theorem State.setBitCell_penalty (s : State) (base r c : Nat) (v : Bool) : (s.setBitCell base r c v).penalty = s.penalty := rfl
@[simp] theorem State.setBitCell_r1 (s : State) (base r c : Nat) (v : Bool) : (s.setBitCell base r c v).r1 = s.r1 := rfl
@[simp] theorem State.setBitCell_r2 (s : State) (base r c : Nat) (v : Bool) : (s.setBitCell base r c v).r2 = s.r2 := rfl
@[simp] theorem State.setBitCell_r3 (s : State) (base r c : Nat) (v : Bool) : (s.setBitCell base r c v).r3 = s.r3 := rfl
@[simp] theorem State.setBitCell_r4 (s : State) (base r c : Nat) (v : Bool) : (s.setBitCell base r c v).r4 = s.r4 := rfl
@[simp] theorem State.setBitCell_best (s : State) (base r c : Nat) (v : Bool) : (s.setBitCell base r c v).best = s.best := rfl
@[simp] theorem State.setBitCell_pen (s : State) (base r c : Nat) (v : Bool) : (s.setBitCell base r c v).pen = s.pen := rfl
@[simp] theorem State.setBitCell_fmt (s : State) (base r c : Nat) (v : Bool) : (s.setBitCell base r c v).fmt = s.fmt := rfl
@[simp] theorem State.setBitCell_placeCap (s : State) (base r c : Nat) (v : Bool) : (s.setBitCell base r c v).placeCap = s.placeCap := rfl
@[simp] theorem State.setBitCell_placeBits (s : State) (base r c : Nat) (v : Bool) : (s.setBitCell base r c v).placeBits = s.placeBits := rfl
@[simp] theorem State.setBitCell_gen (s : State) (base r c : Nat) (v : Bool) : (s.setBitCell base r c v).gen = s.gen := rfl
@[simp] theorem State.setBitCell_ram (s : State) (base r c : Nat) (v : Bool) : (s.setBitCell base r c v).ram = s.ram.write (bitCellOffset base r c) (byteWithBit (s.byteAt (bitCellOffset base r c)) (c % 8) v) := rfl
@[simp] theorem State.setBitCell_inputs (s : State) (base r c : Nat) (v : Bool) : (s.setBitCell base r c v).inputs = s.inputs := rfl
@[simp] theorem State.setBitCell_response (s : State) (base r c : Nat) (v : Bool) : (s.setBitCell base r c v).response = s.response := rfl
@[simp] theorem State.setBitCell_draws (s : State) (base r c : Nat) (v : Bool) : (s.setBitCell base r c v).draws = s.draws := rfl

/-! ## Updates by a list: they change the RAM alone -/

theorem State.setBytes_eq (s : State) (a : Nat) (bs : List Byte) :
    s.setBytes a bs = { s with ram := (s.setBytes a bs).ram } := by
  induction bs generalizing s a with
  | nil => rfl
  | cons b rest ih => rw [State.setBytes, ih]; rfl

theorem State.writeCells_eq (s : State) (base : Nat) (cells : List CellValue) :
    s.writeCells base cells = { s with ram := (s.writeCells base cells).ram } := by
  induction cells generalizing s with
  | nil => rfl
  | cons e rest ih => rw [State.writeCells, List.foldl_cons, ← State.writeCells, ih]; rfl

/-! ## `State.setBytes` -/

@[simp] theorem State.setBytes_params (s : State) (a : Nat) (bs : List Byte) : (s.setBytes a bs).params = s.params := by rw [State.setBytes_eq]
@[simp] theorem State.setBytes_ie (s : State) (a : Nat) (bs : List Byte) : (s.setBytes a bs).ie = s.ie := by rw [State.setBytes_eq]
@[simp] theorem State.setBytes_done (s : State) (a : Nat) (bs : List Byte) : (s.setBytes a bs).done = s.done := by rw [State.setBytes_eq]
@[simp] theorem State.setBytes_err (s : State) (a : Nat) (bs : List Byte) : (s.setBytes a bs).err = s.err := by rw [State.setBytes_eq]
@[simp] theorem State.setBytes_genValid (s : State) (a : Nat) (bs : List Byte) : (s.setBytes a bs).genValid = s.genValid := by rw [State.setBytes_eq]
@[simp] theorem State.setBytes_bestValid (s : State) (a : Nat) (bs : List Byte) : (s.setBytes a bs).bestValid = s.bestValid := by rw [State.setBytes_eq]
@[simp] theorem State.setBytes_errcode (s : State) (a : Nat) (bs : List Byte) : (s.setBytes a bs).errcode = s.errcode := by rw [State.setBytes_eq]
@[simp] theorem State.setBytes_pendcmd (s : State) (a : Nat) (bs : List Byte) : (s.setBytes a bs).pendcmd = s.pendcmd := by rw [State.setBytes_eq]
@[simp] theorem State.setBytes_result (s : State) (a : Nat) (bs : List Byte) : (s.setBytes a bs).result = s.result := by rw [State.setBytes_eq]
@[simp] theorem State.setBytes_version (s : State) (a : Nat) (bs : List Byte) : (s.setBytes a bs).version = s.version := by rw [State.setBytes_eq]
@[simp] theorem State.setBytes_blkCount (s : State) (a : Nat) (bs : List Byte) : (s.setBytes a bs).blkCount = s.blkCount := by rw [State.setBytes_eq]
@[simp] theorem State.setBytes_genDeg (s : State) (a : Nat) (bs : List Byte) : (s.setBytes a bs).genDeg = s.genDeg := by rw [State.setBytes_eq]
@[simp] theorem State.setBytes_penalty (s : State) (a : Nat) (bs : List Byte) : (s.setBytes a bs).penalty = s.penalty := by rw [State.setBytes_eq]
@[simp] theorem State.setBytes_r1 (s : State) (a : Nat) (bs : List Byte) : (s.setBytes a bs).r1 = s.r1 := by rw [State.setBytes_eq]
@[simp] theorem State.setBytes_r2 (s : State) (a : Nat) (bs : List Byte) : (s.setBytes a bs).r2 = s.r2 := by rw [State.setBytes_eq]
@[simp] theorem State.setBytes_r3 (s : State) (a : Nat) (bs : List Byte) : (s.setBytes a bs).r3 = s.r3 := by rw [State.setBytes_eq]
@[simp] theorem State.setBytes_r4 (s : State) (a : Nat) (bs : List Byte) : (s.setBytes a bs).r4 = s.r4 := by rw [State.setBytes_eq]
@[simp] theorem State.setBytes_best (s : State) (a : Nat) (bs : List Byte) : (s.setBytes a bs).best = s.best := by rw [State.setBytes_eq]
@[simp] theorem State.setBytes_pen (s : State) (a : Nat) (bs : List Byte) : (s.setBytes a bs).pen = s.pen := by rw [State.setBytes_eq]
@[simp] theorem State.setBytes_fmt (s : State) (a : Nat) (bs : List Byte) : (s.setBytes a bs).fmt = s.fmt := by rw [State.setBytes_eq]
@[simp] theorem State.setBytes_placeCap (s : State) (a : Nat) (bs : List Byte) : (s.setBytes a bs).placeCap = s.placeCap := by rw [State.setBytes_eq]
@[simp] theorem State.setBytes_placeBits (s : State) (a : Nat) (bs : List Byte) : (s.setBytes a bs).placeBits = s.placeBits := by rw [State.setBytes_eq]
@[simp] theorem State.setBytes_gen (s : State) (a : Nat) (bs : List Byte) : (s.setBytes a bs).gen = s.gen := by rw [State.setBytes_eq]
@[simp] theorem State.setBytes_inputs (s : State) (a : Nat) (bs : List Byte) : (s.setBytes a bs).inputs = s.inputs := by rw [State.setBytes_eq]
@[simp] theorem State.setBytes_response (s : State) (a : Nat) (bs : List Byte) : (s.setBytes a bs).response = s.response := by rw [State.setBytes_eq]
@[simp] theorem State.setBytes_draws (s : State) (a : Nat) (bs : List Byte) : (s.setBytes a bs).draws = s.draws := by rw [State.setBytes_eq]

/-! ## `State.writeCells` -/

@[simp] theorem State.writeCells_params (s : State) (base : Nat) (cells : List CellValue) : (s.writeCells base cells).params = s.params := by rw [State.writeCells_eq]
@[simp] theorem State.writeCells_ie (s : State) (base : Nat) (cells : List CellValue) : (s.writeCells base cells).ie = s.ie := by rw [State.writeCells_eq]
@[simp] theorem State.writeCells_done (s : State) (base : Nat) (cells : List CellValue) : (s.writeCells base cells).done = s.done := by rw [State.writeCells_eq]
@[simp] theorem State.writeCells_err (s : State) (base : Nat) (cells : List CellValue) : (s.writeCells base cells).err = s.err := by rw [State.writeCells_eq]
@[simp] theorem State.writeCells_genValid (s : State) (base : Nat) (cells : List CellValue) : (s.writeCells base cells).genValid = s.genValid := by rw [State.writeCells_eq]
@[simp] theorem State.writeCells_bestValid (s : State) (base : Nat) (cells : List CellValue) : (s.writeCells base cells).bestValid = s.bestValid := by rw [State.writeCells_eq]
@[simp] theorem State.writeCells_errcode (s : State) (base : Nat) (cells : List CellValue) : (s.writeCells base cells).errcode = s.errcode := by rw [State.writeCells_eq]
@[simp] theorem State.writeCells_pendcmd (s : State) (base : Nat) (cells : List CellValue) : (s.writeCells base cells).pendcmd = s.pendcmd := by rw [State.writeCells_eq]
@[simp] theorem State.writeCells_result (s : State) (base : Nat) (cells : List CellValue) : (s.writeCells base cells).result = s.result := by rw [State.writeCells_eq]
@[simp] theorem State.writeCells_version (s : State) (base : Nat) (cells : List CellValue) : (s.writeCells base cells).version = s.version := by rw [State.writeCells_eq]
@[simp] theorem State.writeCells_blkCount (s : State) (base : Nat) (cells : List CellValue) : (s.writeCells base cells).blkCount = s.blkCount := by rw [State.writeCells_eq]
@[simp] theorem State.writeCells_genDeg (s : State) (base : Nat) (cells : List CellValue) : (s.writeCells base cells).genDeg = s.genDeg := by rw [State.writeCells_eq]
@[simp] theorem State.writeCells_penalty (s : State) (base : Nat) (cells : List CellValue) : (s.writeCells base cells).penalty = s.penalty := by rw [State.writeCells_eq]
@[simp] theorem State.writeCells_r1 (s : State) (base : Nat) (cells : List CellValue) : (s.writeCells base cells).r1 = s.r1 := by rw [State.writeCells_eq]
@[simp] theorem State.writeCells_r2 (s : State) (base : Nat) (cells : List CellValue) : (s.writeCells base cells).r2 = s.r2 := by rw [State.writeCells_eq]
@[simp] theorem State.writeCells_r3 (s : State) (base : Nat) (cells : List CellValue) : (s.writeCells base cells).r3 = s.r3 := by rw [State.writeCells_eq]
@[simp] theorem State.writeCells_r4 (s : State) (base : Nat) (cells : List CellValue) : (s.writeCells base cells).r4 = s.r4 := by rw [State.writeCells_eq]
@[simp] theorem State.writeCells_best (s : State) (base : Nat) (cells : List CellValue) : (s.writeCells base cells).best = s.best := by rw [State.writeCells_eq]
@[simp] theorem State.writeCells_pen (s : State) (base : Nat) (cells : List CellValue) : (s.writeCells base cells).pen = s.pen := by rw [State.writeCells_eq]
@[simp] theorem State.writeCells_fmt (s : State) (base : Nat) (cells : List CellValue) : (s.writeCells base cells).fmt = s.fmt := by rw [State.writeCells_eq]
@[simp] theorem State.writeCells_placeCap (s : State) (base : Nat) (cells : List CellValue) : (s.writeCells base cells).placeCap = s.placeCap := by rw [State.writeCells_eq]
@[simp] theorem State.writeCells_placeBits (s : State) (base : Nat) (cells : List CellValue) : (s.writeCells base cells).placeBits = s.placeBits := by rw [State.writeCells_eq]
@[simp] theorem State.writeCells_gen (s : State) (base : Nat) (cells : List CellValue) : (s.writeCells base cells).gen = s.gen := by rw [State.writeCells_eq]
@[simp] theorem State.writeCells_inputs (s : State) (base : Nat) (cells : List CellValue) : (s.writeCells base cells).inputs = s.inputs := by rw [State.writeCells_eq]
@[simp] theorem State.writeCells_response (s : State) (base : Nat) (cells : List CellValue) : (s.writeCells base cells).response = s.response := by rw [State.writeCells_eq]
@[simp] theorem State.writeCells_draws (s : State) (base : Nat) (cells : List CellValue) : (s.writeCells base cells).draws = s.draws := by rw [State.writeCells_eq]

end Sys2Proof.Machine
end

