-- ==== Sys2Proof/Laws/Bus.lean ====
section
/-! SUPPORT. A step that is a host transaction, and what stands at an offset, region by region (spec 20 R61 to R64). -/

namespace Sys2Proof.Machine

/-! ## The step of a transaction -/

/-- The step of an aligned write is the write of the location it decodes to (R60, R63). -/
theorem step_hostWR {s : State} {off : BitVec 16} {v : Word} {rest : List Input}
    (hi : s.inputs = hostWR off v :: rest) (h : off.toNat % 4 = 0) :
    step s = .next ({ s with inputs := rest }.hostWrite (locate off.toNat) v) := by
  simp [step, agentStep, hi, hostWR, State.hostAccess, Access.wellFormed, h]

/-- The step of an aligned read is the read of the location it decodes to (R60, R63). -/
theorem step_hostRD {s : State} {off : BitVec 16} {rest : List Input}
    (hi : s.inputs = hostRD off :: rest) (h : off.toNat % 4 = 0) :
    step s = .next ({ s with inputs := rest }.hostRead (locate off.toNat)) := by
  simp [step, agentStep, hi, hostRD, State.hostAccess, Access.wellFormed, h]

/-- The step of an access of another width or alignment is a bus error (R63). -/
theorem step_badAccess {s : State} {off : BitVec 16} {n : Nat} {dir : Direction} {rest : List Input}
    (hi : s.inputs = .access { offset := off, count := n, dir := dir } :: rest) (h : n ≠ 4 ∨ off.toNat % 4 ≠ 0) :
    step s = .next ({ s with inputs := rest }.busFail .bus dir) := by
  have : Access.wellFormed { offset := off, count := n, dir := dir } = false := by simp [Access.wellFormed]; omega
  simp [step, agentStep, hi, State.hostAccess, this]

/-! ## Answers -/

theorem respond_okay_eq (s : State) (d : Option Word) : s.respond .okay d = s.afterOkay d := rfl

theorem busFail_read_eq (s : State) (e : ErrCode) : s.busFail e .read = s.afterBusError e.code (some 0) := rfl

theorem busFail_write_eq (s : State) (e : ErrCode) (v : Word) :
    s.busFail e (.write v) = s.afterBusError e.code none := rfl

theorem completeErr_eq (s : State) (e : ErrCode) : s.completeErr e = s.afterError e.code := rfl

/-- A write to a RAM window or configuration register while IDLE is performed (R65). -/
theorem writeWhenIdle_idle (s : State) (v : Word) (u : State) (h : s.pendcmd = none) :
    s.writeWhenIdle v u = u.afterOkay none := by simp [State.writeWhenIdle, State.busy, h, respond_okay_eq]

/-- A write to a RAM window or configuration register while BUSY is dropped (R68). -/
theorem writeWhenIdle_busy (s : State) (v w : Word) (u : State) (h : s.pendcmd = some w) :
    s.writeWhenIdle v u = s.afterBusError 0x04 none := by
  simp [State.writeWhenIdle, State.busy, h, busFail_write_eq, ErrCode.code]

/-- A read while IDLE returns the location's value (R65). -/
theorem busRead_idle (s : State) (l : Location) (h : s.pendcmd = none) : s.busRead l = s.readValue l := by
  simp [State.busRead, State.busy, h]

/-- A read of an exact location returns its value, busy or not (R68). -/
theorem busRead_exact (s : State) (l : Location) (h : l.exactWhileBusy = true) : s.busRead l = s.readValue l := by
  simp [State.busRead, h]

/-- A read of a location that is not reserved answers OKAY with what `busRead` gives (R64, R66). -/
theorem hostRead_eq (s : State) (l : Location) (h : l ≠ .reserved) :
    s.hostRead l = s.afterOkay (some (s.busRead l)) := by simp [State.hostRead, h, respond_okay_eq]

/-! ## Address decoding -/

/-- No single register stands at an offset above 0x3C other than 0x80 and 0x84. -/
theorem locate_eq_window {a : Nat} (h : 0x03C < a) (h1 : a ≠ 0x080) (h2 : a ≠ 0x084) : locate a = locateWindow a := by
  unfold locate; split <;> first | omega | rfl

theorem locate_pen (m : BitVec 3) : locate (0x040 + 4 * m.toNat) = .pen m := by
  have := m.isLt
  rw [locate_eq_window (by omega) (by omega) (by omega), locateWindow, if_pos (by omega)]
  congr 1; apply BitVec.eq_of_toNat_eq; simp

theorem locate_fmt (m : BitVec 3) : locate (0x060 + 4 * m.toNat) = .fmt m := by
  have := m.isLt
  rw [locate_eq_window (by omega) (by omega) (by omega), locateWindow, if_neg (by omega), if_pos (by omega)]
  congr 1; apply BitVec.eq_of_toNat_eq; simp

theorem locate_gen {a : Nat} (h : 0x0100 ≤ a) (h' : a ≤ 0x01FF) : locate a = .gen (a - 0x0100) := by
  rw [locate_eq_window (by omega) (by omega) (by omega), locateWindow]; grind

theorem locate_exp {a : Nat} (h : 0x0200 ≤ a) (h' : a ≤ 0x03FF) : locate a = .exp (a - 0x0200) := by
  rw [locate_eq_window (by omega) (by omega) (by omega), locateWindow]; grind

theorem locate_log {a : Nat} (h : 0x0400 ≤ a) (h' : a ≤ 0x04FF) : locate a = .log (a - 0x0400) := by
  rw [locate_eq_window (by omega) (by omega) (by omega), locateWindow]; grind

/-- An offset of a RAM window decodes to that RAM offset (Table 20-1). -/
theorem locate_of_isRam {a : Nat} (h : isRamOffset a = true) : locate a = .ram a := by
  have h' := h
  simp only [isRamOffset, Bool.or_eq_true, Bool.and_eq_true, decide_eq_true_eq] at h'
  rw [locate_eq_window (by omega) (by omega) (by omega), locateWindow]
  simp only [h, if_true]; split_ifs <;> first | omega | rfl

/-- An offset of no region decodes to the reserved location (Table 20-1, R64). -/
theorem locate_reserved {a : Nat} (h : 0x0088 ≤ a) (hr : isRamOffset a = false) (h' : a ≤ 0x00FF ∨ 0x0500 ≤ a) :
    locate a = .reserved := by
  rw [locate_eq_window (by omega) (by omega) (by omega), locateWindow]
  simp only [hr, Bool.false_eq_true, if_false]; split_ifs <;> first | omega | rfl

end Sys2Proof.Machine
end

