-- ==== Sys2Proof/Laws/Memory.lean ====
section
/-! SUPPORT. The RAM as a sorted list: a read after a write or an erasure, and that every operation keeps the canonical
form and brings in no offset but its own. -/

namespace Sys2Proof.Machine

@[simp] theorem Memory.read?_nil (a : Nat) : Memory.read? [] a = none := rfl

/-- A read after a write: the value written at the same offset, the old one elsewhere. -/
@[simp] theorem Memory.read?_write (m : Memory) (a a' : Nat) (b : Byte) :
    (m.write a b).read? a' = if a' = a then some b else m.read? a' := by
  induction m with
  | nil => simp only [Memory.write, Memory.read?]; grind
  | cons e rest ih => simp only [Memory.write, Memory.read?]; grind [Memory.read?]

/-- A read after an erasure: nothing at the erased offset, the old value elsewhere. -/
@[simp] theorem Memory.read?_erase (m : Memory) (a a' : Nat) :
    (m.erase a).read? a' = if a' = a then none else m.read? a' := by
  induction m with
  | nil => simp [Memory.erase]
  | cons e rest ih =>
    simp only [Memory.erase] at ih
    simp only [Memory.erase, List.filter_cons]
    split <;> simp only [Memory.read?] <;> grind

/-- A read after some bits of one byte were forgotten. -/
theorem Memory.read?_forgetBits (m : Memory) (a a' : Nat) (bits free : Byte) :
    (m.forgetBits a bits free).read? a' =
      if a' = a then
        if bits = 0xFF then none else (m.read? a).map fun b => (b &&& ~~~bits) ||| (free &&& bits)
      else m.read? a' := by
  unfold Memory.forgetBits
  split
  · simp
  · split <;> rename_i h <;> by_cases ha : a' = a <;> simp_all

/-- A write lists its own offset and no other new one. -/
theorem Memory.mem_write {m : Memory} {a : Nat} {b : Byte} {e : Host.Cell} (h : e ∈ m.write a b) :
    e = (a, b) ∨ e ∈ m := by
  induction m with
  | nil => simpa [Memory.write] using h
  | cons x rest ih => simp only [Memory.write] at h; grind

theorem Memory.mem_erase {m : Memory} {a : Nat} {e : Host.Cell} (h : e ∈ m.erase a) : e ∈ m :=
  (List.mem_filter.mp h).1

/-- Forgetting bits lists no offset that was not listed. -/
theorem Memory.mem_forgetBits {m : Memory} {a : Nat} {bits free : Byte} {e : Host.Cell}
    (h : e ∈ m.forgetBits a bits free) : ∃ e' ∈ m, e'.1 = e.1 := by
  unfold Memory.forgetBits at h
  split at h
  · exact ⟨e, Memory.mem_erase h, rfl⟩
  · split at h
    · exact ⟨e, h, rfl⟩
    · rename_i b hb
      rcases Memory.mem_write h with rfl | h
      · have : ∀ l : Memory, l.read? a = some b → ∃ e' ∈ l, e'.1 = a := by
          intro l
          induction l with
          | nil => simp
          | cons x rest ih => simp only [Memory.read?]; grind
        simpa using this m hb
      · exact ⟨e, h, rfl⟩

/-- A write keeps the canonical form. -/
theorem Memory.write_wf {m : Memory} (h : Memory.wf m) (a : Nat) (b : Byte) : Memory.wf (m.write a b) := by
  induction m with
  | nil => simp [Memory.write]
  | cons x rest ih =>
    have hr : Memory.wf rest := (List.pairwise_cons.mp h).2
    have hx := (List.pairwise_cons.mp h).1
    simp only [Memory.write]
    split
    · refine List.pairwise_cons.mpr ⟨fun y hy => ?_, h⟩
      rcases List.mem_cons.mp hy with rfl | hy
      · assumption
      · have := hx y hy; omega
    · split
      · rename_i h1 h2
        refine List.pairwise_cons.mpr ⟨fun y hy => ?_, hr⟩
        have := hx y hy; simp only [h2]; exact this
      · refine List.pairwise_cons.mpr ⟨fun y hy => ?_, ih hr⟩
        rcases Memory.mem_write hy with rfl | hy
        · show x.1 < a; omega
        · exact hx y hy

theorem Memory.erase_wf {m : Memory} (h : Memory.wf m) (a : Nat) : Memory.wf (m.erase a) := h.filter _

theorem Memory.forgetBits_wf {m : Memory} (h : Memory.wf m) (a : Nat) (bits free : Byte) :
    Memory.wf (m.forgetBits a bits free) := by
  unfold Memory.forgetBits
  split
  · exact Memory.erase_wf h a
  · split
    · exact h
    · exact Memory.write_wf h _ _

/-- The memory of the reset state has the canonical form. -/
theorem reset_ram_wf : Memory.wf State.reset.ram := List.Pairwise.nil

end Sys2Proof.Machine
end

