-- ==== Sys2Proof/Laws/Cells.lean ====
section
/-! SUPPORT. Bytes and grid cells of the RAM as a step reads them: what a read gives after a byte, a run of bytes, one
cell or a list of cells was written. -/

namespace Sys2Proof.Machine

/-! ## Bytes -/

/-- A byte read after a byte was stored in the same step. -/
@[simp] theorem State.byteAt_setByte (s : State) (a a' : Nat) (b : Byte) :
    (s.setByte a b).byteAt a' = if a' = a then b else s.byteAt a' := by
  unfold State.byteAt
  simp only [State.setByte_ram, State.setByte_draws, Memory.read?_write]
  split <;> simp

/-- What is written where after consecutive bytes were stored. -/
theorem State.read?_setBytes (s : State) (a : Nat) (bs : List Byte) (a' : Nat) :
    (s.setBytes a bs).ram.read? a' = if a ≤ a' ∧ a' < a + bs.length then bs[a' - a]? else s.ram.read? a' := by
  induction bs generalizing s a with
  | nil => simp [State.setBytes]
  | cons b rest ih =>
    rw [State.setBytes, ih]
    simp only [State.setByte_ram, Memory.read?_write, List.length_cons]
    by_cases h : a' = a
    · subst h; simp
    · by_cases h1 : a + 1 ≤ a' ∧ a' < a + 1 + rest.length
      · have h2 : a ≤ a' ∧ a' < a + (rest.length + 1) := by omega
        have h3 : a' - a = (a' - (a + 1)) + 1 := by omega
        simp [h1, h2, h3]
      · have h2 : ¬(a ≤ a' ∧ a' < a + (rest.length + 1)) := by omega
        rw [if_neg h1, if_neg h2, if_neg h]

/-- Storing bytes keeps the canonical form. -/
theorem State.setBytes_wf (s : State) (a : Nat) (bs : List Byte) (h : Memory.wf s.ram) :
    Memory.wf (s.setBytes a bs).ram := by
  induction bs generalizing s a with
  | nil => exact h
  | cons b rest ih => exact ih _ _ (Memory.write_wf h a b)

/-- Storing bytes lists no offset but theirs. -/
theorem State.mem_setBytes {s : State} {a : Nat} {bs : List Byte} {e : Host.Cell}
    (h : e ∈ (s.setBytes a bs).ram) : (a ≤ e.1 ∧ e.1 < a + bs.length) ∨ e ∈ s.ram := by
  induction bs generalizing s a with
  | nil => exact .inr h
  | cons b rest ih =>
    rcases ih h with h1 | h1
    · simp only [List.length_cons]; omega
    · rcases Memory.mem_write h1 with rfl | h1
      · left; simp
      · exact .inr h1

/-! ## One cell -/

/-- The bits of a byte after one of its eight bits was set. -/
theorem getLsbD_byteWithBit (b : Byte) (i j : Nat) (v : Bool) (hi : i < 8) :
    (byteWithBit b i v).getLsbD j = if j = i then v else b.getLsbD j := by
  unfold byteWithBit
  by_cases hj : j < 8
  · interval_cases i <;> interval_cases j <;> cases v <;> simp
  · have : b.getLsbD j = false := BitVec.getLsbD_of_ge _ _ (by omega)
    rw [if_neg (show ¬j = i by omega), this]
    exact BitVec.getLsbD_of_ge _ _ (not_lt.mp hj)

/-- Two cells of stored columns share a byte and a bit only if they are the same cell. -/
theorem bitCellOffset_inj {base r c r' c' : Nat} (hc : c < 256) (hc' : c' < 256)
    (h : bitCellOffset base r c = bitCellOffset base r' c') : r = r' ∧ c / 8 = c' / 8 := by
  unfold bitCellOffset at h; omega

/-- A cell read after a cell was written in the same step: the value written to the same cell, the old one elsewhere. -/
theorem State.bitCell_setBitCell (s : State) (base r c r' c' : Nat) (v : Bool) (hc : c < 256) (hc' : c' < 256) :
    (s.setBitCell base r c v).bitCell base r' c' = if r' = r ∧ c' = c then v else s.bitCell base r' c' := by
  unfold State.bitCell State.setBitCell
  rw [State.byteAt_setByte]
  by_cases ho : bitCellOffset base r' c' = bitCellOffset base r c
  · obtain ⟨h1, h2⟩ := bitCellOffset_inj hc' hc ho
    rw [if_pos ho, getLsbD_byteWithBit _ _ _ _ (Nat.mod_lt _ (by omega)), ho]
    by_cases hm : c' % 8 = c % 8
    · rw [if_pos hm, if_pos ⟨h1, by omega⟩]
    · rw [if_neg hm, if_neg (fun h => hm (by rw [h.2]))]
  · rw [if_neg ho, if_neg (fun h => ho (by rw [h.1, h.2]))]

/-! ## A list of cells -/

@[simp] theorem State.writeCells_nil (s : State) (base : Nat) : s.writeCells base [] = s := rfl

@[simp] theorem State.writeCells_cons (s : State) (base : Nat) (e : CellValue) (rest : List CellValue) :
    s.writeCells base (e :: rest) = (s.setBitCell base e.1.1 e.1.2 e.2).writeCells base rest := rfl

theorem State.writeCells_append (s : State) (base : Nat) (l l' : List CellValue) :
    s.writeCells base (l ++ l') = (s.writeCells base l).writeCells base l' := List.foldl_append

/-- A cell that is not in the list keeps its value. -/
theorem State.bitCell_writeCells_of_notMem (s : State) (base : Nat) (l : List CellValue) (r c : Nat)
    (hl : ∀ e ∈ l, e.1.2 < 256) (hc : c < 256) (h : ∀ e ∈ l, e.1 ≠ (r, c)) :
    (s.writeCells base l).bitCell base r c = s.bitCell base r c := by
  induction l generalizing s with
  | nil => rfl
  | cons e rest ih =>
    rw [State.writeCells_cons, ih _ (fun x hx => hl x (.tail _ hx)) (fun x hx => h x (.tail _ hx)),
      State.bitCell_setBitCell _ _ _ _ _ _ _ (hl e (.head _)) hc, if_neg]
    intro hrc
    exact h e (.head _) (by rw [hrc.1, hrc.2])

/-- A cell that stands once in the list holds the value listed with it. -/
theorem State.bitCell_writeCells_of_mem (s : State) (base : Nat) (l : List CellValue) (r c : Nat) (v : Bool)
    (hl : ∀ e ∈ l, e.1.2 < 256) (hn : (l.map Prod.fst).Nodup) (h : ((r, c), v) ∈ l) :
    (s.writeCells base l).bitCell base r c = v := by
  induction l generalizing s with
  | nil => cases h
  | cons e rest ih =>
    rw [List.map_cons, List.nodup_cons] at hn
    rcases List.mem_cons.mp h with rfl | h
    · have hc : c < 256 := hl ((r, c), v) (.head _)
      rw [State.writeCells_cons, State.bitCell_writeCells_of_notMem _ _ _ _ _ (fun x hx => hl x (.tail _ hx)) hc,
        State.bitCell_setBitCell _ _ _ _ _ _ _ hc hc, if_pos ⟨rfl, rfl⟩]
      intro x hx hxe
      exact hn.1 (List.mem_map.mpr ⟨x, hx, hxe⟩)
    · exact ih _ (fun x hx => hl x (.tail _ hx)) hn.2 h

/-- A byte that holds none of the listed cells is written or unwritten as before. -/
theorem State.read?_writeCells_of_notMem (s : State) (base : Nat) (l : List CellValue) (a : Nat)
    (h : ∀ e ∈ l, a ≠ bitCellOffset base e.1.1 e.1.2) : (s.writeCells base l).ram.read? a = s.ram.read? a := by
  induction l generalizing s with
  | nil => rfl
  | cons e rest ih =>
    rw [State.writeCells_cons, ih _ (fun x hx => h x (.tail _ hx)), State.setBitCell_ram, Memory.read?_write,
      if_neg (h e (.head _))]

/-- A written byte stays written. -/
theorem State.read?_writeCells_ne_none (s : State) (base : Nat) (l : List CellValue) (a : Nat)
    (h : s.ram.read? a ≠ none) : (s.writeCells base l).ram.read? a ≠ none := by
  induction l generalizing s with
  | nil => exact h
  | cons e rest ih =>
    refine ih _ ?_
    rw [State.setBitCell_ram, Memory.read?_write]
    split <;> simp [h]

/-- The byte of a listed cell is written. -/
theorem State.read?_writeCells_of_mem (s : State) (base : Nat) (l : List CellValue) (e : CellValue) (h : e ∈ l) :
    (s.writeCells base l).ram.read? (bitCellOffset base e.1.1 e.1.2) ≠ none := by
  induction l generalizing s with
  | nil => cases h
  | cons x rest ih =>
    rcases List.mem_cons.mp h with rfl | h
    · rw [State.writeCells_cons]
      exact State.read?_writeCells_ne_none _ _ _ _ (by simp)
    · exact ih _ h

/-- The value of a cell in a written byte does not depend on the draw counter or any register. -/
theorem State.bitCell_eq_of_read? {s t : State} {base r c : Nat}
    (h : t.ram.read? (bitCellOffset base r c) = s.ram.read? (bitCellOffset base r c))
    (hw : s.ram.read? (bitCellOffset base r c) ≠ none) : t.bitCell base r c = s.bitCell base r c := by
  unfold State.bitCell State.byteAt
  obtain ⟨b, hb⟩ := Option.ne_none_iff_exists'.mp hw
  rw [h, hb]; rfl

/-- Writing cells keeps the canonical form. -/
theorem State.writeCells_wf (s : State) (base : Nat) (l : List CellValue) (h : Memory.wf s.ram) :
    Memory.wf (s.writeCells base l).ram := by
  induction l generalizing s with
  | nil => exact h
  | cons e rest ih => exact ih _ (Memory.write_wf h _ _)

/-- Writing cells lists no offset but theirs. -/
theorem State.mem_writeCells {s : State} {base : Nat} {l : List CellValue} {x : Host.Cell}
    (h : x ∈ (s.writeCells base l).ram) : (∃ e ∈ l, x.1 = bitCellOffset base e.1.1 e.1.2) ∨ x ∈ s.ram := by
  induction l generalizing s with
  | nil => exact .inr h
  | cons e rest ih =>
    rcases ih h with ⟨e', he', hx⟩ | h1
    · exact .inl ⟨e', .tail _ he', hx⟩
    · rcases Memory.mem_write h1 with rfl | h1
      · exact .inl ⟨e, .head _, rfl⟩
      · exact .inr h1

/-! ## The cells of a grid -/

/-- The in-grid cells are those with row and column below the side. -/
@[simp] theorem mem_gridCells (n r c : Nat) : (r, c) ∈ gridCells n ↔ r < n ∧ c < n := by
  simp [gridCells, List.mem_flatMap]

/-- Every in-grid cell is listed once. -/
theorem gridCells_nodup (n : Nat) : (gridCells n).Nodup := by
  unfold gridCells
  rw [List.nodup_flatMap]
  refine ⟨fun r _ => List.nodup_range.map fun a b h => (Prod.mk.inj h).2, ?_⟩
  refine List.Pairwise.imp ?_ (List.nodup_range (n := n))
  intro a b hab
  simp only [Function.onFun, List.disjoint_left, List.mem_map, List.mem_range]
  rintro x ⟨c, _, rfl⟩ ⟨c', _, h⟩
  exact hab (Prod.mk.inj h).1.symm

/-- A sum over the in-grid cells is the sum of the sums over its rows. -/
theorem sum_gridCells (n : Nat) (f : Nat → Nat → Nat) :
    ((gridCells n).map fun rc => f rc.1 rc.2).sum = ((List.range n).map fun r => ((List.range n).map (f r)).sum).sum := by
  simp [gridCells, List.flatMap, List.sum_flatten, Function.comp_def]

end Sys2Proof.Machine
end

