-- ==== Sys2Proof/Laws/Encoding.lean ====
section
/-! SUPPORT. Small facts of the encoding: every command of the machine is well formed (spec 30 R92, R96), the fields of
a word, and the word of its four bytes (20 R62). -/

namespace Sys2Proof

/-- The widths of `Instr` make every operand fit its field (R92, R96). -/
theorem instr_wellFormed (i : Instr) : i.WellFormed := by
  cases i <;> simp only [Instr.WellFormed, Instr.asm, AsmCommand.fits, Bool.and_eq_true, decide_eq_true_eq] <;> omega

/-- A bit of a word's field (R7). -/
theorem getLsbD_wordField (w : Word) (hi lo i : Nat) :
    (wordField w hi lo).getLsbD i = (decide (i < hi - lo + 1) && w.getLsbD (lo + i)) := by
  simp [wordField]

/-- A word is the word of its own four bytes (R62). -/
theorem wordOfBytes_extract (w : Word) :
    wordOfBytes (w.extractLsb' 0 8) (w.extractLsb' 8 8) (w.extractLsb' 16 8) (w.extractLsb' 24 8) = w := by
  apply BitVec.eq_of_getLsbD_eq
  intro i hi
  simp only [wordOfBytes, BitVec.getLsbD_append, BitVec.getLsbD_extractLsb']
  interval_cases i <;> simp

/-- A row's check passes exactly with the command of the row, its must-be-zero bits being 0 (R94). -/
theorem requireZero_eq_ok {zero : Bool} {i j : Instr} : requireZero zero i = .ok j ↔ zero = true ∧ i = j := by
  cases zero <;> simp [requireZero]

end Sys2Proof
end

