-- ==== Sys2Proof/Laws/Field.lean ====
section
/-! SUPPORT. The exponent and logarithm ROMs are what R130 defines, and how the field product acts on powers of α. -/

namespace Sys2Proof.Machine

/-- α^255 = 1: the powers of α repeat with period 255. -/
theorem alphaPow_255 : alphaPow 255 = 0x01 := by decide +kernel

theorem alphaPow_add_255 (n : Nat) : alphaPow (n + 255) = alphaPow n := by
  induction n with
  | zero => exact alphaPow_255
  | succ n ih => show xtime (alphaPow (n + 255)) = _; rw [ih]; rfl

/-- A power of α depends on its exponent modulo 255. -/
theorem alphaPow_mod (n : Nat) : alphaPow (n % 255) = alphaPow n := by
  conv_rhs => rw [← Nat.mod_add_div n 255]
  generalize n / 255 = q
  induction q with
  | zero => rfl
  | succ q ih => rw [Nat.mul_succ, ← Nat.add_assoc, alphaPow_add_255]; exact ih

/-- The exponent ROM holds the powers of α at every index 0..510 (R130, R37). -/
theorem expAt_eq_alphaPow {i : Nat} (h : i ≤ 510) : expAt i = alphaPow i := by
  have : ∀ i ∈ List.range 511, expAt i = alphaPow i := by decide +kernel
  exact this i (List.mem_range.mpr (by omega))

/-- The slot past the exponent table reads 0 (R37). -/
theorem expAt_511 : expAt 511 = 0x00 := by decide +kernel

/-- Every nonzero byte is α to its logarithm, and the logarithm is at most 254 (R38). -/
theorem alphaPow_logAt {a : Byte} (h : a ≠ 0) : alphaPow (logAt a).toNat = a ∧ (logAt a).toNat ≤ 254 := by
  have : ∀ n ∈ List.range 256, n ≠ 0 →
      alphaPow (logAt (BitVec.ofNat 8 n)).toNat = BitVec.ofNat 8 n ∧ (logAt (BitVec.ofNat 8 n)).toNat ≤ 254 := by
    decide +kernel
  have hn := this a.toNat (List.mem_range.mpr a.isLt) (fun h0 => h (BitVec.eq_of_toNat_eq h0))
  simpa using hn

/-- The logarithm of a power of α is its exponent, for exponents below 255 (R38). -/
theorem logAt_alphaPow {e : Nat} (h : e < 255) : (logAt (alphaPow e)).toNat = e := by
  have : ∀ e ∈ List.range 255, (logAt (alphaPow e)).toNat = e := by decide +kernel
  exact this e (List.mem_range.mpr h)

/-- No power of α is 0. -/
theorem alphaPow_ne_zero (e : Nat) : alphaPow e ≠ 0 := by
  have : ∀ e ∈ List.range 255, alphaPow e ≠ 0 := by decide +kernel
  rw [← alphaPow_mod]
  exact this _ (List.mem_range.mpr (Nat.mod_lt _ (by omega)))

@[simp] theorem gfMul_zero_left (b : Byte) : gfMul 0 b = 0 := by simp [gfMul]

@[simp] theorem gfMul_zero_right (a : Byte) : gfMul a 0 = 0 := by simp [gfMul]

/-- The product of two powers of α adds the exponents (R131). -/
theorem gfMul_alphaPow (i j : Nat) : gfMul (alphaPow i) (alphaPow j) = alphaPow (i + j) := by
  have hi : i % 255 < 255 := Nat.mod_lt _ (by omega)
  have hj : j % 255 < 255 := Nat.mod_lt _ (by omega)
  rw [gfMul, if_neg (fun h => h.elim (alphaPow_ne_zero i) (alphaPow_ne_zero j)), ← alphaPow_mod i, ← alphaPow_mod j, logAt_alphaPow hi,
    logAt_alphaPow hj, expAt_eq_alphaPow (by omega), ← alphaPow_mod, ← Nat.add_mod, alphaPow_mod]

end Sys2Proof.Machine
end

