-- ==== Sys2Proof/Laws/Parity.lean ====
section
/-! SUPPORT. Lengths in the Reed-Solomon unit (spec 42 R152, R160): the generator of parity length n has n + 1
coefficients, the divider multiplies by GEN_DEG of them, and the parity has as many codewords. -/

namespace Sys2Proof.Machine

/-- The generator of parity length n has degree n (R151). -/
theorem generator_length (n : Nat) : (generator n).length = n + 1 := by
  induction n with
  | zero => rfl
  | succ n ih => simp [generator, mulLinear, ih]

/-- Adding into a buffer keeps its length. -/
theorem xorInto_length (ws gs : List Byte) : (xorInto ws gs).length = ws.length := by
  induction ws generalizing gs with
  | nil => cases gs <;> rfl
  | cons w ws ih => cases gs <;> simp [xorInto, ih]

/-- Each elimination step takes one codeword off the buffer (R160). -/
theorem eliminate_length (g : List Byte) (k : Nat) (w : List Byte) (h : k ≤ w.length) :
    (eliminate g k w).length = w.length - k := by
  induction k generalizing w with
  | zero => rfl
  | succ k ih =>
    cases w with
    | nil => simp at h
    | cons c w =>
      have hl : (if c = 0 then w else xorInto w (g.map (gfMul · c))).length = w.length := by
        split
        · rfl
        · exact xorInto_length _ _
      simp only [eliminate]
      rw [ih _ (by rw [hl]; simpa using h), hl]
      simp

/-- The parity has as many codewords as the divider has coefficients (R160). -/
theorem rsParity_length (g d : List Byte) : (rsParity g d).length = g.length := by
  rw [rsParity, eliminate_length _ _ _ (by simp)]; simp

/-- The divider multiplies by GEN_DEG coefficients (R160). -/
theorem State.genTail_length (s : State) : s.genTail.length = s.genDeg.toNat := by
  unfold State.genTail; simp; omega

end Sys2Proof.Machine
end

