-- ==== Sys2Proof/Laws/PerInstr.lean ====
section
/-! SUPPORT. One fact about every command as syntax: its assembled word lies in its own row of the opcode map, and only
its operand bits differ from the row's `match` column (spec 30 R93, R96). -/

namespace Sys2Proof.Laws.OpcodeRow

/-- The assembled word of a command matches the command's row, and its operand bits stay clear of the row's mask. -/
def Statement (i : Instr) : Prop := encode i &&& opcodeMask i = opcodeMatch i ∧ operandBits i &&& opcodeMask i = 0

/-- A row's match column lies inside its mask. -/
theorem match_and_mask (i : Instr) : opcodeMatch i &&& opcodeMask i = opcodeMatch i := by
  cases i <;> (dsimp only [opcodeMatch, opcodeMask]; decide)

/-- Operand bits below a row's mask leave the row's match column in the assembled word. -/
theorem of_disjoint {i : Instr} (h : operandBits i &&& opcodeMask i = 0) : Statement i := by
  refine ⟨?_, h⟩
  rw [encode, BitVec.and_comm, BitVec.and_or_distrib_left, BitVec.and_comm, match_and_mask, BitVec.and_comm, h]
  exact BitVec.or_zero

/-- A value of at most 9 bits, zero-extended, is clear of a mask whose lower bits are 0. -/
theorem setWidth_and_eq_zero {n : Nat} (v : BitVec n) (mask : Word) (h : ∀ i, i < n → mask.getLsbD i = false) :
    v.setWidth 32 &&& mask = 0 := by
  apply BitVec.eq_of_getLsbD_eq
  intro i _
  by_cases hi : i < n
  · simp [h i hi]
  · simp [BitVec.getLsbD_of_ge v i (by omega)]

theorem nop : Statement .nop := by unfold Statement; decide
theorem gfMul (a b : Byte) : Statement (.gfMul a b) := by
  refine of_disjoint ?_
  apply BitVec.eq_of_getLsbD_eq
  intro i hi
  simp only [operandBits, opcodeMask, BitVec.getLsbD_and, BitVec.getLsbD_or, BitVec.getLsbD_shiftLeft,
    BitVec.getLsbD_setWidth]
  by_cases h : i < 16
  · interval_cases i <;> simp
  · simp [BitVec.getLsbD_of_ge b i (by omega), BitVec.getLsbD_of_ge a (i - 8) (by omega)]
theorem gfExp (i : BitVec 9) : Statement (.gfExp i) := of_disjoint (setWidth_and_eq_zero _ _ (by dsimp only [opcodeMask]; decide))
theorem gfLog (a : Byte) : Statement (.gfLog a) := of_disjoint (setWidth_and_eq_zero _ _ (by dsimp only [opcodeMask]; decide))
theorem rsGen (n : BitVec 8) : Statement (.rsGen n) := of_disjoint (setWidth_and_eq_zero _ _ (by dsimp only [opcodeMask]; decide))
theorem rsEnc (blk : BitVec 8) : Statement (.rsEnc blk) :=
  of_disjoint (setWidth_and_eq_zero _ _ (by dsimp only [opcodeMask]; decide))
theorem place : Statement .place := by unfold Statement; decide
theorem maskEval (m : BitVec 3) : Statement (.maskEval m) :=
  of_disjoint (setWidth_and_eq_zero _ _ (by dsimp only [opcodeMask]; decide))
theorem maskSelect : Statement .maskSelect := by unfold Statement; decide
theorem score : Statement .score := by unfold Statement; decide

end Sys2Proof.Laws.OpcodeRow
end

