-- ==== Sys2Proof/Laws/Reset.lean ====
section
/-! SUPPORT. What abandoning a command leaves in the RAM (spec 70 R291): the canonical form is kept, no offset becomes
listed that was not, and nothing outside the abandoned command's destination changes. -/

namespace Sys2Proof.Machine

/-- A fold of memory operations keeps what each of them keeps. -/
theorem foldl_keeps {α : Type} {P : Memory → Prop} (f : Memory → α → Memory) (l : List α)
    (hf : ∀ m x, x ∈ l → P m → P (f m x)) (m : Memory) (h : P m) : P (l.foldl f m) := by
  induction l generalizing m with
  | nil => exact h
  | cons x rest ih => exact ih (fun m y hy => hf m y (.tail _ hy)) _ (hf m x (.head _) h)

/-! ## Codewords -/

/-- Forgetting codewords: the bytes of CW named are unwritten, every other byte is as before. -/
theorem State.read?_forgetCodewords (s : State) (off len a : Nat) :
    Memory.read? (s.forgetCodewords off len) a =
      if 0x1000 + off ≤ a ∧ a < 0x1000 + off + len ∧ a < 0x2000 then none else s.ram.read? a := by
  unfold State.forgetCodewords
  induction len with
  | zero => simp; omega
  | succ n ih =>
    rw [List.range_succ, List.foldl_append, List.foldl_cons, List.foldl_nil]
    unfold cwBytes cwBase at *
    split
    · rw [Memory.read?_erase, ih]; grind
    · rw [ih]; grind

/-- Forgetting codewords keeps the canonical form. -/
theorem State.forgetCodewords_wf (s : State) (off len : Nat) (h : Memory.wf s.ram) :
    Memory.wf (s.forgetCodewords off len) :=
  foldl_keeps (P := Memory.wf) _ _ (fun m t _ hm => by split; exacts [Memory.erase_wf hm _, hm]) _ h

/-- Forgetting codewords lists nothing that was not listed. -/
theorem State.mem_forgetCodewords {s : State} {off len : Nat} {e : Host.Cell}
    (h : e ∈ s.forgetCodewords off len) : ∃ e' ∈ s.ram, e'.1 = e.1 :=
  foldl_keeps (P := fun m => ∀ e ∈ m, ∃ e' ∈ s.ram, e'.1 = e.1) _ _
    (fun m t _ hm e he => by
      split at he
      · exact hm e (Memory.mem_erase he)
      · exact hm e he) _ (fun e he => ⟨e, he, rfl⟩) e h

/-! ## Grids -/

/-- The bytes whose cells a grid's forgetting names lie in the grid's window. -/
theorem mem_gridByteBits {base n : Nat} {x : Nat × Byte} (h : x ∈ gridByteBits base n) :
    ∃ r k, r < n ∧ r < 256 ∧ k < 32 ∧ x = (base + 32 * r + k, rowBits n k) := by
  simp only [gridByteBits, gridRows, List.mem_flatMap, List.mem_range, List.mem_map] at h
  obtain ⟨r, hr, k, hk, rfl⟩ := h
  exact ⟨r, k, by omega, by omega, hk, rfl⟩

/-- Forgetting a grid leaves every byte outside its window as before. -/
theorem State.read?_forgetGrid_of_outside (s : State) (base a : Nat) (h : a < base ∨ base + 0x2000 ≤ a) :
    Memory.read? (s.forgetGrid base) a = s.ram.read? a :=
  foldl_keeps (P := fun m => Memory.read? m a = s.ram.read? a) _ _
    (fun m x hx hm => by
      obtain ⟨r, k, _, hr, hk, rfl⟩ := mem_gridByteBits hx
      rw [Memory.read?_forgetBits, if_neg (by dsimp only; omega), hm]) _ rfl

/-- Forgetting a grid keeps the canonical form. -/
theorem State.forgetGrid_wf (s : State) (base : Nat) (h : Memory.wf s.ram) : Memory.wf (s.forgetGrid base) :=
  foldl_keeps (P := Memory.wf) _ _ (fun _ _ _ hm => Memory.forgetBits_wf hm _ _ _) _ h

/-- Forgetting a grid lists no offset that was not listed. -/
theorem State.mem_forgetGrid {s : State} {base : Nat} {e : Host.Cell} (h : e ∈ s.forgetGrid base) :
    ∃ e' ∈ s.ram, e'.1 = e.1 :=
  foldl_keeps (P := fun m => ∀ e ∈ m, ∃ e' ∈ s.ram, e'.1 = e.1) _ _
    (fun m x _ hm e he => by
      obtain ⟨e', he', h'⟩ := Memory.mem_forgetBits he
      obtain ⟨e'', he'', h''⟩ := hm e' he'
      exact ⟨e'', he'', h''.trans h'⟩) _ (fun e he => ⟨e, he, rfl⟩) e h

/-! ## The RAM of an abandoned command -/

/-- What abandoning a command can do to the RAM: nothing, forget parity codewords, or forget one of the two grids. -/
theorem State.abandonedRam_cases (s : State) :
    s.abandonedRam = s.ram ∨
    (∃ blk : BitVec 8, blk.toNat < 128 ∧
      s.abandonedRam = s.forgetCodewords (s.descriptor blk.toNat).eoff s.genDeg.toNat) ∨
    s.abandonedRam = s.forgetGrid 0x2000 ∨ s.abandonedRam = s.forgetGrid 0x4000 := by
  unfold State.abandonedRam
  split
  · exact .inl rfl
  · split
    all_goals first
      | exact .inl rfl
      | exact .inr (.inr (.inl rfl))
      | exact .inr (.inr (.inr rfl))
      | (split
         · exact .inr (.inl ⟨_, by assumption, rfl⟩)
         · exact .inl rfl)

/-- Abandoning a command keeps the canonical form. -/
theorem State.abandonedRam_wf (s : State) (h : Memory.wf s.ram) : Memory.wf s.abandonedRam := by
  rcases s.abandonedRam_cases with e | ⟨_, _, e⟩ | e | e <;> rw [e]
  exacts [h, s.forgetCodewords_wf _ _ h, s.forgetGrid_wf _ h, s.forgetGrid_wf _ h]

/-- Abandoning a command lists no offset that was not listed. -/
theorem State.mem_abandonedRam {s : State} {e : Host.Cell} (h : e ∈ s.abandonedRam) :
    ∃ e' ∈ s.ram, e'.1 = e.1 := by
  rcases s.abandonedRam_cases with q | ⟨_, _, q⟩ | q | q <;> rw [q] at h
  exacts [⟨e, h, rfl⟩, State.mem_forgetCodewords h, State.mem_forgetGrid h, State.mem_forgetGrid h]

end Sys2Proof.Machine
end

