-- ==== Sys2Proof/Laws/Scorer.lean ====
section
/-! SUPPORT. The cells of a grid made cell by cell, and the pattern-match unit's two scanners, one character at a time
(spec 44 R223, R224): what is still to be dropped is dropped, a match at the head is deleted or counted, and any other
character is passed over. -/

namespace Sys2Proof.Machine

/-- An in-grid cell of a grid made cell by cell. -/
@[simp] theorem gridCell_gridOf {n r c : Nat} (f : Nat → Nat → Bool) (hr : r < n) (hc : c < n) :
    gridCell (gridOf n f) r c = f r c := by
  simp [gridCell, gridOf, hr, hc]

/-- Dropping the rest of a match first is scanning what stands behind it. -/
theorem stripFrom_eq_drop (p : List Bool) (k : Nat) (s : List Bool) : stripFrom p k s = strip p (s.drop k) := by
  induction k generalizing s with
  | zero => rfl
  | succ k ih => cases s <;> simp [stripFrom, strip, ih]

/-- Skipping the rest of a match first is counting in what stands behind it. -/
theorem countFrom_eq_drop (p : List Bool) (k : Nat) (s : List Bool) : countFrom p k s = countFrom p 0 (s.drop k) := by
  induction k generalizing s with
  | zero => rfl
  | succ k ih => cases s <;> simp [countFrom, ih]

/-- A match at the head is deleted, and the scan goes on behind it (R223). -/
theorem strip_of_prefix {p s : List Bool} (hp : p ≠ []) (h : p <+: s) : strip p s = strip p (s.drop p.length) := by
  obtain ⟨b, rfl⟩ := h
  obtain ⟨x, q, rfl⟩ := List.exists_cons_of_ne_nil hp
  simp only [strip, List.cons_append, stripFrom]
  rw [if_pos (by simp [List.isPrefixOf_iff_prefix]), stripFrom_eq_drop]
  simp [strip]

/-- A match at the head counts one, and the count goes on behind it (R224). -/
theorem countFrom_of_prefix {p s : List Bool} (hp : p ≠ []) (h : p <+: s) :
    countFrom p 0 s = 1 + countFrom p 0 (s.drop p.length) := by
  obtain ⟨b, rfl⟩ := h
  obtain ⟨x, q, rfl⟩ := List.exists_cons_of_ne_nil hp
  simp only [List.cons_append, countFrom]
  rw [if_pos (by simp [List.isPrefixOf_iff_prefix]), countFrom_eq_drop]
  simp

/-- A character at which no match starts is emitted (R223). -/
theorem strip_cons_of_not_prefix {p s : List Bool} {x : Bool} (h : ¬ p <+: x :: s) : strip p (x :: s) = x :: strip p s := by
  simp only [strip, stripFrom]
  rw [if_neg (by simpa [List.isPrefixOf_iff_prefix] using h)]

/-- A character at which no match starts is passed over (R224). -/
theorem countFrom_cons_of_not_prefix {p s : List Bool} {x : Bool} (h : ¬ p <+: x :: s) :
    countFrom p 0 (x :: s) = countFrom p 0 s := by
  simp only [countFrom]
  rw [if_neg (by simpa [List.isPrefixOf_iff_prefix] using h)]

end Sys2Proof.Machine
end

