-- ==== Sys2Proof/Laws/Step.lean ====
section
/-! SUPPORT. What a step can do, said once: the inversion of `step`, of the engine's move, of a bus transaction, and of
each command that checks before it executes. -/

namespace Sys2Proof.Machine

/-! ## The step -/

/-- A step is a bus transaction, a hardware reset, or the engine's move; what it takes off the inputs comes first. -/
theorem step_cases {s t : State} (h : step s = .next t) :
    (∃ a rest, s.inputs = .access a :: rest ∧ t = { s with inputs := rest }.hostAccess a) ∨
    (∃ rest, s.inputs = .hardReset :: rest ∧ t = { s with inputs := rest }.hardReset) ∨
    (∃ rest, (s.inputs = [] ∧ rest = [] ∨ s.inputs = .engine :: rest) ∧
      engineStep { s with inputs := rest } = .next t) := by
  unfold step agentStep at h
  split at h <;> rename_i hi
  · exact .inr (.inr ⟨[], .inl ⟨hi, rfl⟩, by rw [← hi]; exact h⟩)
  · injection h with h; exact .inl ⟨_, _, hi, h.symm⟩
  · exact .inr (.inr ⟨_, .inr hi, h⟩)
  · injection h with h; exact .inr (.inl ⟨_, hi, h.symm⟩)

/-- The engine's move leaves an IDLE block alone, ends an illegal word with its error, or executes the command. -/
theorem engineStep_cases {s t : State} (h : engineStep s = .next t) :
    (s.pendcmd = none ∧ t = s) ∨
    (∃ w why, s.pendcmd = some w ∧ decode w = .error why ∧ t = s.completeErr .illegalCmd) ∨
    (∃ w i, s.pendcmd = some w ∧ decode w = .ok i ∧ exec i s = .next t) := by
  unfold engineStep at h
  split at h
  · injection h with h; exact .inl ⟨by assumption, h.symm⟩
  · split at h
    · exact .inr (.inr ⟨_, _, by assumption, by assumption, h⟩)
    · injection h with h; exact .inr (.inl ⟨_, _, by assumption, by assumption, h.symm⟩)

/-! ## A bus transaction -/

/-- What a performed write does to the state, apart from its answer. -/
inductive WriteEffect (s : State) : State → Prop where
  | ignored : WriteEffect s s
  | softReset : WriteEffect s s.softReset
  | ie (b : Bool) : WriteEffect s { s with ie := b }
  | status (v : Word) : WriteEffect s (s.writeStatus v)
  | accept (v : Word) : s.pendcmd = none → WriteEffect s (s.accept v)
  | version (v : BitVec 6) : WriteEffect s { s with version := v }
  | blkCount (v : BitVec 8) : WriteEffect s { s with blkCount := v }
  | fmt (f : Vector (BitVec 15) 8) : WriteEffect s { s with fmt := f }
  | ram (a : Nat) (v : Word) : isRamOffset a = true → a % 4 = 0 → WriteEffect s (s.setWord a v)

/-- An offset that address decoding gives to the RAM is a RAM offset, and the one decoded. -/
theorem locate_ram {a x : Nat} (h : locate a = .ram x) : isRamOffset x = true ∧ x = a := by
  unfold locate at h
  split at h <;> try exact absurd h (by simp)
  unfold locateWindow at h
  repeat' split at h
  all_goals first
    | (injection h with h; exact ⟨h ▸ by assumption, h.symm⟩)
    | exact absurd h (by simp)

/-- A bus-side error is the error record and an ERROR answer (R262). -/
theorem busFail_eq (s : State) (e : ErrCode) (dir : Direction) :
    ∃ d, s.busFail e dir = (s.recordError e).respond .error d := ⟨_, rfl⟩

/-- A write that must find the block IDLE is either performed or answered with E_ACCESS_BUSY. -/
theorem writeWhenIdle_cases (s : State) (v : Word) (u : State) :
    (s.pendcmd = none ∧ s.writeWhenIdle v u = u.respond .okay none) ∨
    s.writeWhenIdle v u = (s.recordError .accessBusy).respond .error none := by
  unfold State.writeWhenIdle State.busy
  cases h : s.pendcmd
  · left; exact ⟨rfl, rfl⟩
  · right; rfl

/-- A bus transaction records a bus-side error and answers ERROR, or is a read that only answers OKAY, or performs one
write and answers OKAY. -/
theorem hostAccess_cases (s : State) (a : Access) :
    (∃ e d, (e = .busy ∨ e = .bus ∨ e = .accessBusy) ∧ s.hostAccess a = (s.recordError e).respond .error d) ∨
    (∃ d, s.hostAccess a = s.respond .okay (some d)) ∨
    (∃ u, WriteEffect s u ∧ s.hostAccess a = u.respond .okay none) := by
  have idle : ∀ (v : Word) (u : State), WriteEffect s u →
      (∃ e d, (e = .busy ∨ e = .bus ∨ e = .accessBusy) ∧
        s.writeWhenIdle v u = (s.recordError e).respond .error d) ∨
      (∃ d, s.writeWhenIdle v u = s.respond .okay (some d)) ∨
      (∃ u', WriteEffect s u' ∧ s.writeWhenIdle v u = u'.respond .okay none) := by
    intro v u hu
    rcases writeWhenIdle_cases s v u with ⟨_, h⟩ | h
    · exact .inr (.inr ⟨u, hu, h⟩)
    · exact .inl ⟨_, _, .inr (.inr rfl), h⟩
  have ignored : (∃ e d, (e = .busy ∨ e = .bus ∨ e = .accessBusy) ∧
        s.respond .okay none = (s.recordError e).respond .error d) ∨
      (∃ d, s.respond .okay none = s.respond .okay (some d)) ∨
      (∃ u, WriteEffect s u ∧ s.respond .okay none = u.respond .okay none) :=
    .inr (.inr ⟨s, .ignored, rfl⟩)
  unfold State.hostAccess
  split
  · rename_i hwf
    split
    · unfold State.hostRead
      split
      · exact .inl ⟨.bus, _, .inr (.inl rfl), rfl⟩
      · exact .inr (.inl ⟨_, rfl⟩)
    · rename_i v _
      cases hl : locate a.offset.toNat <;> simp only [State.hostWrite]
      case ctrl =>
        refine .inr (.inr ⟨_, ?_, rfl⟩)
        unfold State.writeCtrl
        split
        · exact .softReset
        · exact .ie _
      case status => exact .inr (.inr ⟨_, .status v, rfl⟩)
      case cmd =>
        unfold State.writeCmd State.busy
        cases hp : s.pendcmd
        · exact .inr (.inr ⟨_, .accept v hp, rfl⟩)
        · exact .inl ⟨.busy, _, .inl rfl, rfl⟩
      case version => exact idle _ _ (.version _)
      case blkCount => exact idle _ _ (.blkCount _)
      case fmt => exact idle _ _ (.fmt _)
      case ram x =>
        obtain ⟨hr, hx⟩ := locate_ram hl
        refine idle _ _ (.ram x v hr ?_)
        simp only [Access.wellFormed, Bool.and_eq_true, decide_eq_true_eq] at hwf
        rw [hx]; exact hwf.2
      case reserved => exact .inl ⟨.bus, _, .inr (.inl rfl), rfl⟩
      all_goals exact ignored
  · exact .inl ⟨.bus, _, .inr (.inl rfl), rfl⟩

/-! ## The commands that check first -/

/-- RS_ENC ends with the error of its first failing check, or stores the parity (R163, R165). -/
theorem execRsEnc_cases {blk : BitVec 8} {s t : State} (h : exec (.rsEnc blk) s = .next t) :
    (∃ e, s.rsEncCheck blk.toNat = some e ∧ t = s.completeErr e) ∨
    (s.rsEncCheck blk.toNat = none ∧
      t = (s.setBytes (cwBase + (s.descriptor blk.toNat).eoff) (s.blockParity blk.toNat)).completeOk) := by
  have h : execRsEnc blk s = .next t := h
  unfold execRsEnc at h
  injection h with h
  split at h
  · exact .inl ⟨_, by assumption, h.symm⟩
  · exact .inr ⟨by assumption, h.symm⟩

/-- PLACE ends with the error of its first failing check, or places the bits, with E_PLACE_OVF when there are more bits
than cells (R181, R189, R191). -/
theorem execPlace_cases {s t : State} (h : exec .place s = .next t) :
    (∃ e, s.placeCheck = some e ∧ t = s.completeErr e) ∨
    (s.placeCheck = none ∧ s.bitStream.length > s.visitOrder.length ∧ t = s.placed.completeErr .placeOvf) ∨
    (s.placeCheck = none ∧ s.bitStream.length ≤ s.visitOrder.length ∧ t = s.placed.completeOk) := by
  have h : execPlace s = .next t := h
  unfold execPlace at h
  injection h with h
  split at h
  · exact .inl ⟨_, by assumption, h.symm⟩
  · split at h
    · exact .inr (.inl ⟨by assumption, by assumption, h.symm⟩)
    · exact .inr (.inr ⟨by assumption, by omega, h.symm⟩)

/-- The state MASK_EVAL m leaves when its checks hold, before its completion (R232). -/
def maskEvaluated (m : BitVec 3) (s : State) : State :=
  { (s.writeCells realBase (gridWrites s.side (s.realize m))).setScores (s.maskScores m) with
    pen := s.pen.set m.toNat (BitVec.ofNat 32 (s.maskTotal m)) m.isLt }

/-- MASK_EVAL ends with the error of its first failing check, or writes the realized grid and its scores (R211, R232). -/
theorem execMaskEval_cases {m : BitVec 3} {s t : State} (h : exec (.maskEval m) s = .next t) :
    (∃ e, s.maskCheck = some e ∧ t = s.completeErr e) ∨
    (s.maskCheck = none ∧ t = (maskEvaluated m s).completeOk) := by
  have h : execMaskEval m s = .next t := h
  unfold execMaskEval at h
  injection h with h
  split at h
  · exact .inl ⟨_, by assumption, h.symm⟩
  · exact .inr ⟨by assumption, h.symm⟩

/-- The state MASK_SELECT leaves when its checks hold, before its completion (R236). -/
def maskSelected (s : State) : State :=
  { (s.writeCells realBase (gridWrites s.side (s.realize s.selectedMask))).setScores (s.maskScores s.selectedMask) with
    pen := Vector.ofFn fun m : Fin 8 => BitVec.ofNat 32 (s.maskTotal (BitVec.ofNat 3 m.val))
    best := s.selectedMask
    bestValid := true }

/-- MASK_SELECT ends with the error of its first failing check, or writes the best mask's grid (R211, R236). -/
theorem execMaskSelect_cases {s t : State} (h : exec .maskSelect s = .next t) :
    (∃ e, s.maskCheck = some e ∧ t = s.completeErr e) ∨ (s.maskCheck = none ∧ t = (maskSelected s).completeOk) := by
  have h : execMaskSelect s = .next t := h
  unfold execMaskSelect at h
  injection h with h
  split at h
  · exact .inl ⟨_, by assumption, h.symm⟩
  · exact .inr ⟨by assumption, h.symm⟩

/-- RS_ENC's checks all hold exactly when it is ready (R163). -/
theorem rsEncCheck_eq_none (blk : BitVec 8) (s : State) : s.rsEncCheck blk.toNat = none ↔ RsEncReady blk s := by
  unfold State.rsEncCheck RsEncReady State.blkCountBad BlockDesc.inRange blkMax cwBytes
  cases s.genValid
  · simp
  · simp only [Bool.not_true, Bool.false_eq_true, if_false, true_and]
    split
    · rename_i h
      simp only [Bool.or_eq_true, decide_eq_true_eq] at h
      simp only [reduceCtorEq, false_iff]; omega
    · rename_i h
      simp only [Bool.or_eq_true, decide_eq_true_eq] at h
      split
      · rename_i h'
        simp only [Bool.not_eq_true', Bool.and_eq_false_iff, decide_eq_false_iff_not] at h'
        simp only [reduceCtorEq, false_iff]; omega
      · rename_i h'
        simp only [Bool.not_eq_true', Bool.and_eq_false_iff, decide_eq_false_iff_not] at h'
        split
        · simp only [reduceCtorEq, false_iff]; omega
        · simp only [true_iff]; omega

/-- The checks of MASK_EVAL and MASK_SELECT all hold (R211). -/
theorem maskCheck_eq_none (s : State) :
    s.maskCheck = none ↔ 1 ≤ s.version.toNat ∧ s.version.toNat ≤ 40 ∧ s.tmplOk = true := by
  unfold State.maskCheck State.versionOk
  by_cases h1 : 1 ≤ s.version.toNat <;> by_cases h2 : s.version.toNat ≤ 40 <;> cases s.tmplOk <;> simp [h1, h2]

/-- PLACE's checks all hold exactly when it is ready (R181). -/
theorem placeCheck_eq_none (s : State) : s.placeCheck = none ↔ PlaceReady s := by
  unfold State.placeCheck PlaceReady State.versionOk State.blkCountBad BlockDesc.inRange blkMax cwBytes
  by_cases h1 : 1 ≤ s.version.toNat <;> by_cases h2 : s.version.toNat ≤ 40 <;> cases s.tmplOk <;> simp [h1, h2]
  by_cases h3 : s.blkCount.toNat = 0
  · simp [h3]
  · by_cases h4 : 128 < s.blkCount.toNat
    · simp [h3, h4]
    · have h5 : 1 ≤ s.blkCount.toNat := by omega
      have h6 : s.blkCount.toNat ≤ 128 := by omega
      simp [h3, h4, h5, h6]

end Sys2Proof.Machine
end

