-- ==== Sys2Proof/Tests/Slice0.lean ====
section
/-! SUPPORT. Small tests with expected values from spec/ (the vectors T-… and S-… of 95_test_vectors.md, the tables of the
rules), the smoke test of WellFormed, and for each obligation with hypotheses a witness that meets them. -/

namespace Sys2Proof.Tests

open Sys2Proof.Machine

/-! ## WellFormed: an ill-formed command for each check, and the greatest operand that fits (R96) -/

theorem test_wf_gfMul_a : (AsmCommand.gfMul 256 0).fits = false ∧ (AsmCommand.gfMul 255 255).fits = true := by decide
theorem test_wf_gfMul_b : (AsmCommand.gfMul 0 256).fits = false := by decide
theorem test_wf_gfExp : (AsmCommand.gfExp 512).fits = false ∧ (AsmCommand.gfExp 511).fits = true := by decide
theorem test_wf_gfLog : (AsmCommand.gfLog 256).fits = false ∧ (AsmCommand.gfLog 255).fits = true := by decide
theorem test_wf_rsGen : (AsmCommand.rsGen 256).fits = false ∧ (AsmCommand.rsGen 255).fits = true := by decide
theorem test_wf_rsEnc : (AsmCommand.rsEnc 256).fits = false ∧ (AsmCommand.rsEnc 255).fits = true := by decide
theorem test_wf_maskEval : (AsmCommand.maskEval 8).fits = false ∧ (AsmCommand.maskEval 7).fits = true := by decide

/-! ## Decoding: one word for each constructor, written field by field from the format of R91 and the opcode of R93 -/

/-- F0 `oooooooo000000000000000000000000` with OPC 0x00. -/
theorem test_decode_nop : decode (0b00000000#8 ++ 0b000000000000000000000000#24) = .ok .nop := by decide
/-- FAB `oooooooo00000000AAAAAAAABBBBBBBB` with OPC 0x01, A = 0x53, B = 0xCA. -/
theorem test_decode_gfMul :
    decode (0b00000001#8 ++ 0b00000000#8 ++ 0b01010011#8 ++ 0b11001010#8) = .ok (.gfMul 0x53 0xCA) := by decide
/-- FI9 `oooooooo000000000000000IIIIIIIII` with OPC 0x02, IDX = 300. -/
theorem test_decode_gfExp : decode (0b00000010#8 ++ 0b000000000000000#15 ++ 0b100101100#9) = .ok (.gfExp 300) := by
  decide
/-- FI8 `oooooooo0000000000000000IIIIIIII` with OPC 0x03, IMM = 0x1D. -/
theorem test_decode_gfLog : decode (0b00000011#8 ++ 0b0000000000000000#16 ++ 0b00011101#8) = .ok (.gfLog 0x1D) := by
  decide
/-- FI8 with OPC 0x10, IMM = 7. -/
theorem test_decode_rsGen : decode (0b00010000#8 ++ 0b0000000000000000#16 ++ 0b00000111#8) = .ok (.rsGen 7) := by decide
/-- FI8 with OPC 0x11, IMM = 128. -/
theorem test_decode_rsEnc : decode (0b00010001#8 ++ 0b0000000000000000#16 ++ 0b10000000#8) = .ok (.rsEnc 128) := by
  decide
/-- F0 with OPC 0x20. -/
theorem test_decode_place : decode (0b00100000#8 ++ 0b000000000000000000000000#24) = .ok .place := by decide
/-- FM3 `oooooooo000000000000000000000MMM` with OPC 0x30, MASK = 6. -/
theorem test_decode_maskEval : decode (0b00110000#8 ++ 0b000000000000000000000#21 ++ 0b110#3) = .ok (.maskEval 6) := by
  decide
/-- F0 with OPC 0x31. -/
theorem test_decode_maskSelect : decode (0b00110001#8 ++ 0b000000000000000000000000#24) = .ok .maskSelect := by decide
/-- F0 with OPC 0x32. -/
theorem test_decode_score : decode (0b00110010#8 ++ 0b000000000000000000000000#24) = .ok .score := by decide
/-- The illegal words with a listed opcode, T-EN-1. -/
theorem test_decode_reserved_bits :
    [0x00000001#32, 0x01010000, 0x02000200, 0x03000100, 0x20000001, 0x30000008].map decode =
      List.replicate 6 (.error .reservedBitSet) := by decide
/-- The illegal words with an opcode not in the map, T-EN-1. -/
theorem test_decode_unlisted :
    [0x04000000#32, 0x12000000, 0x21000000, 0x33000000, 0xFF000000, 0xFFFFFFFF].map decode =
      List.replicate 6 (.error .unlistedOpcode) := by decide
/-- The assembled words of T-EN-1 and P1. -/
theorem test_encode :
    encode (.gfMul 0x53 0xCA) = 0x010053CA ∧ encode (.gfExp 511) = 0x020001FF ∧ encode (.gfLog 0x53) = 0x03000053 ∧
    encode (.rsGen 255) = 0x100000FF ∧ encode (.rsEnc 128) = 0x11000080 ∧ encode (.maskEval 7) = 0x30000007 := by decide
/-- The opcode table numbers a command's bits as the word does. -/
theorem test_tableWord : decodeTableWord 32 0x010053CA = some (.gfMul 0x53 0xCA) := by decide
/-- Assembler text of P1 (R96), and an operand that does not fit. -/
theorem test_assemble :
    assembleLine "GF_MUL 0x53, 0xCA".toList = some 0x010053CA ∧ assembleLine "GF_EXP 510".toList = some 0x020001FE ∧
    assembleLine "PLACE".toList = some 0x20000000 ∧ assembleLine "GF_EXP 512".toList = none := by decide +kernel

/-! ## Small states -/

/-- The state an outcome goes on in. -/
def next? (o : Host.Outcome State Fault Refusal) : Option State :=
  match o with
  | .next s => some s
  | .fault _ => none
  | .refused _ => none

/-- Bytes at consecutive offsets. -/
def bytesAt (a : Nat) (bs : List Byte) : Memory := bs.zipIdx.map fun x => (a + x.2, x.1)

/-- GEN of parity length 2 and one descriptor, number `blk`, with data 01 00 at DOFF (T-RS-2, second row). -/
def rsState (blk : Nat) (count : BitVec 8) (doff dlen eoff elen : Nat) : State :=
  { State.reset with
    gen := genStore (generator 2), genDeg := 2, genValid := true, blkCount := count
    ram := bytesAt (0x800 + 8 * blk)
        [BitVec.ofNat 8 doff, BitVec.ofNat 8 (doff / 256), BitVec.ofNat 8 dlen, 0,
         BitVec.ofNat 8 eoff, BitVec.ofNat 8 (eoff / 256), BitVec.ofNat 8 elen, 0]
      ++ bytesAt (0x1000 + doff) [0x01, 0x00] }

/-- The in-grid bytes of a one-bit 21×21 grid, cell (r, c) being `f r c`. -/
def gridRam (base : Nat) (f : Nat → Nat → Bool) : Memory :=
  (List.range 21).flatMap fun r => (List.range 3).map fun k =>
    (base + 32 * r + k, BitVec.ofNat 8 ((List.range 8).map fun i => if f r (8 * k + i) then 2 ^ i else 0).sum)

/-- The template of T-PL-3: every cell fixed 0, but the cells (15..20, 19..20) pending. -/
def tmplRam : Memory :=
  (List.range 21).flatMap fun r =>
    bytesAt (0x8000 + 64 * r) [0, 0, 0, 0, if 15 ≤ r then 0x80 else 0, if 15 ≤ r then 0x02 else 0]

/-- T-PL-3: blocks of one data codeword each, FF and 0F, and a third descriptor whose data passes the end of CW; `count`
blocks are used. Of SHADOW and REAL only the bytes the tests look at are written, with 0. -/
def gridState (count : BitVec 8) : State :=
  { State.reset with
    blkCount := count
    ram := bytesAt 0x800 [0, 0, 1, 0, 0, 0, 0, 0, 1, 0, 1, 0, 0, 0, 0, 0, 0xFF, 0x0F, 2, 0, 0, 0, 0, 0]
      ++ bytesAt 0x1000 [0xFF, 0x0F]
      ++ [14, 15, 16, 17, 18, 19, 20].map (fun r => (0x2000 + 32 * r + 2, 0))
      ++ bytesAt (0x4000 + 32 * 8) [0, 0, 0] ++ [14, 15, 16, 20].map (fun r => (0x4000 + 32 * r + 2, 0)) ++ tmplRam }

/-- T-PL-3: the template passes the template check (the used blocks do not matter). -/
theorem tmplOk_gridState (count : BitVec 8) : (gridState count).tmplOk = true := by
  have h : (gridState 0).tmplOk = true := by decide +kernel
  exact h

/-- T-PL-3: V. -/
theorem visitOrder_gridState (count : BitVec 8) : (gridState count).visitOrder =
    [(20, 20), (20, 19), (19, 20), (19, 19), (18, 20), (18, 19), (17, 20), (17, 19), (16, 20), (16, 19), (15, 20), (15, 19)] := by
  have h : (gridState 0).visitOrder = [(20, 20), (20, 19), (19, 20), (19, 19), (18, 20), (18, 19), (17, 20), (17, 19),
      (16, 20), (16, 19), (15, 20), (15, 19)] := by decide +kernel
  exact h

/-- Blocks 0 and 1 are in range. -/
theorem inRange_gridState (count : BitVec 8) : ∀ b, b < 2 →
    ((gridState count).descriptor b).doff + ((gridState count).descriptor b).dlen ≤ 4096 ∧
    ((gridState count).descriptor b).eoff + ((gridState count).descriptor b).elen ≤ 4096 := by
  have h : ∀ b, b < 2 → ((gridState 0).descriptor b).doff + ((gridState 0).descriptor b).dlen ≤ 4096 ∧
      ((gridState 0).descriptor b).eoff + ((gridState 0).descriptor b).elen ≤ 4096 := by decide +kernel
  exact h

/-- The checks of the mask commands pass, whatever FMT holds. -/
theorem maskCheck_gridState (count : BitVec 8) (f : Vector (BitVec 15) 8) :
    { gridState count with fmt := f }.maskCheck = none := by
  have h : { gridState count with fmt := f }.tmplOk = true := tmplOk_gridState count
  have hv : { gridState count with fmt := f }.versionOk = true := rfl
  simp only [State.maskCheck, h, hv]; rfl

/-- The checks of PLACE pass with two blocks. -/
theorem placeCheck_gridState : (gridState 2).placeCheck = none := by
  have h : ((List.range (gridState 2).blkCount.toNat).all fun b => ((gridState 2).descriptor b).inRange) = true := by
    decide +kernel
  have hv : (gridState 2).versionOk = true := rfl
  simp only [State.placeCheck, tmplOk_gridState, hv, h]; rfl

/-- A state whose REAL holds a grid, everything else as after reset. -/
def scoreState (f : Nat → Nat → Bool) : State := { State.reset with ram := gridRam 0x4000 f }

/-- A mask predicate on the cells (r, c) with r, c in 0..5: one number a row, column 0 its most significant bit. -/
def predRows (form : Config.Mask7Form) (m : BitVec 3) : List Nat :=
  (List.range 6).map fun r => (List.range 6).foldl (fun w c => 2 * w + (maskPred form m r c).toNat) 0

/-- R1 to R4 and PENALTY. -/
def penalties (s : State) : List Word := [s.r1, s.r2, s.r3, s.r4, s.penalty]

/-! ## One step of each command -/

/-- R120's worked example: NOP leaves STATUS = 0x0000_0002. -/
theorem test_nop : (next? (step (State.reset.withFetchWord 32 0))).map State.statusWord = some 0x00000002 := by decide
/-- T-GF-1: 0x53 · 0xCA = 0x8F. -/
theorem test_gfMul : (next? (exec (.gfMul 0x53 0xCA) State.reset)).map State.result = some 0x8F := by decide
/-- T-GF-1: a zero second operand gives 0 (D23). -/
theorem test_gfMul_zero : (next? (exec (.gfMul 0x57 0x00) State.reset)).map State.result = some 0x00 := by decide
/-- T-GF-2: EXP[300] = 0xC1. -/
theorem test_gfExp : (next? (exec (.gfExp 300) State.reset)).map State.result = some 0xC1 := by decide
/-- T-GF-2: GF_EXP 511 leaves RESULT and records E_DOMAIN. -/
theorem test_gfExp_domain :
    (next? (exec (.gfExp 511) { State.reset with result := 0x77 })).map (fun t => (t.result, t.err, t.errcode)) =
      some (0x77, true, 0x05) := by decide
/-- T-GF-2: LOG[0x53] = 206. -/
theorem test_gfLog : (next? (exec (.gfLog 0x53) State.reset)).map State.result = some 206 := by decide
/-- T-GF-2: GF_LOG 0 leaves RESULT and records E_DOMAIN. -/
theorem test_gfLog_domain :
    (next? (exec (.gfLog 0) { State.reset with result := 0x77 })).map (fun t => (t.result, t.err, t.errcode)) =
      some (0x77, true, 0x05) := by decide
/-- R154: the generator of parity length 7, and 0 behind it. -/
theorem test_rsGen : (next? (exec (.rsGen 7) State.reset)).map (fun t => t.gen.toList.take 9) =
    some [0x01, 0x7F, 0x7A, 0x9A, 0xA4, 0x0B, 0x44, 0x75, 0x00] := by decide +kernel
/-- R152: RS_GEN 0 gives GEN = 01, GEN_DEG = 0, GEN_VALID = 1. -/
theorem test_rsGen_zero : (next? (exec (.rsGen 0) State.reset)).map (fun t => (t.genByte 0, t.genByte 1, t.genDeg, t.genValid)) =
    some (0x01, 0x00, 0, true) := by decide +kernel
/-- T-RS-2: data 01 00 has parity 07 06. -/
theorem test_rsEnc : (next? (exec (.rsEnc 0) (rsState 0 1 0 2 2 2))).map (fun t => t.ram.filter fun e => 0x1000 ≤ e.1) =
    some [(0x1000, 0x01), (0x1001, 0x00), (0x1002, 0x07), (0x1003, 0x06)] := by decide +kernel
/-- R164: parity that overlaps the data is that of the data as the command found it. -/
theorem test_rsEnc_overlap : (next? (exec (.rsEnc 0) (rsState 0 1 0 2 1 2))).map (fun t => t.ram.filter fun e => 0x1000 ≤ e.1) =
    some [(0x1000, 0x01), (0x1001, 0x07), (0x1002, 0x06)] := by decide +kernel
/-- T-PL-3: 12 cells, 16 bits: PLACE_CAP = PLACE_BITS = 12 and E_PLACE_OVF; rows 17 to 20 are 1 and rows 15, 16 are 0. -/
theorem test_place_overflow :
    (next? (exec .place (gridState 2))).map (fun t => (t.placeCap, t.placeBits, t.errcode,
      [14, 15, 16, 17, 18, 19, 20].map fun r => (t.ram.read? (0x2000 + 32 * r + 2)))) =
    some (12, 12, 0x0C, [some 0, some 0, some 0, some 0x18, some 0x18, some 0x18, some 0x18]) := by
  simp only [exec, execPlace, placeCheck_gridState, visitOrder_gridState, State.placed, State.placeWrites]
  decide +kernel
/-- T-PL-4: VERSION = 41 gives E_VERSION before any other check. -/
theorem test_place_version :
    (next? (exec .place { State.reset with version := 41 })).map (fun t => (t.err, t.errcode)) = some (true, 0x0A) := by
  decide
/-- T-MK-2's check of row 8: FMT[3] = 0x789D in copies A and B, over a template that is fixed 0 there. -/
theorem test_maskEval_format :
    (next? (exec (.maskEval 3) { gridState 1 with fmt := Vector.replicate 8 0x789D })).map
      (fun t => [0, 1, 2].map fun k => t.ram.read? (0x4000 + 32 * 8 + k)) = some [some 0x0F, some 0x21, some 0x17] := by
  simp only [exec, execMaskEval, maskCheck_gridState]
  decide +kernel
/-- Mask 1 (r mod 2 = 0) flips the pending cells of even rows only (R213, R215); shadow 0. -/
theorem test_maskEval_pending :
    (next? (exec (.maskEval 1) { gridState 1 with fmt := Vector.replicate 8 0 })).map
      (fun t => [14, 15, 16].map fun r => t.ram.read? (0x4000 + 32 * r + 2)) =
      some [some 0x00, some 0x00, some 0x18] := by
  simp only [exec, execMaskEval, maskCheck_gridState]
  decide +kernel
/-- T-MK-1: the eight predicates on the cells (r, c) with r, c in 0..5, mask 7 as DOC; one number a row, column 0 its most
significant bit. -/
theorem test_maskPred :
    [0, 1, 2, 3, 4, 5, 6, 7].map (predRows .doc) =
      [[0b101010, 0b010101, 0b101010, 0b010101, 0b101010, 0b010101],
       [0b111111, 0b000000, 0b111111, 0b000000, 0b111111, 0b000000],
       [0b100100, 0b100100, 0b100100, 0b100100, 0b100100, 0b100100],
       [0b100100, 0b001001, 0b010010, 0b100100, 0b001001, 0b010010],
       [0b111000, 0b111000, 0b000111, 0b000111, 0b111000, 0b111000],
       [0b111111, 0b100000, 0b100100, 0b101010, 0b100100, 0b100000],
       [0b111111, 0b111000, 0b110110, 0b101010, 0b101101, 0b100011],
       [0b111000, 0b110001, 0b100011, 0b000111, 0b001110, 0b011100]] := by decide +kernel
/-- T-MK-1: mask 7 as ISO. -/
theorem test_maskPred_iso :
    predRows .iso 7 = [0b101010, 0b000111, 0b100011, 0b010101, 0b111000, 0b011100] := by decide +kernel
/-- S-7: the least total, ties to the lowest id. -/
theorem test_maskSelect_comparator :
    [[5, 5, 5, 5, 5, 5, 5, 5], [9, 7, 7, 8, 9, 9, 9, 9], [9, 9, 9, 9, 9, 9, 9, 3]].map
      (fun l => bestMask fun m => l.getD m.toNat 0) = [0, 1, 7] := by decide
/-- T-MK-4: VERSION = 0 gives E_VERSION, and BEST_VALID keeps its value. -/
theorem test_maskSelect_version :
    (next? (exec .maskSelect { State.reset with version := 0, bestValid := true })).map
      (fun t => (t.bestValid, t.errcode)) = some (true, 0x0A) := by decide
/-- T-SC-1: the uniform 21×21 grid. -/
theorem test_score_uniform : (next? (exec .score (scoreState fun _ _ => true))).map penalties =
    some [798, 1200, 0, 100, 2098] := by decide +kernel
/-- T-SC-3: the checkerboard with P1 at (10, 5..15). -/
theorem test_score_pattern :
    (next? (exec .score (scoreState fun r c =>
      if r = 10 ∧ 5 ≤ c ∧ c ≤ 15 then patternP1.getD (c - 5) false else (r + c) % 2 == 0))).map penalties =
    some [0, 0, 40, 0, 40] := by decide +kernel
/-- T-R3-4: the lines on which STRIP and COUNT differ. -/
theorem test_line3 :
    line3 .strip ([true, false, true, true, true, false, true] ++ patternP1 ++ List.replicate 4 false) = 2 ∧
    line3 .count ([true, false, true, true, true, false, true] ++ patternP1 ++ List.replicate 4 false) = 3 := by decide

/-! ## The bus -/

/-- T-BUS-1: reads after reset. -/
theorem test_bus_reads :
    [(0x000, 0x51520001), (0x01C, 0x15), (0x220, 0x9C4E279D), (0x3FC, 0x00018E47), (0x400, 0x19010000), (0x100, 0)].map
      (fun x : BitVec 16 × Word => ((next? (step { State.reset with inputs := [hostRD x.1] })).bind State.response) ==
        some { status := .okay, data := some x.2 }) = List.replicate 6 true := by decide +kernel
/-- T-BUS-1: a read at offset 1 and one at a reserved offset. -/
theorem test_bus_errors :
    [0x001, 0x088].map (fun off : BitVec 16 => (next? (step { State.reset with inputs := [hostRD off] })).map
      fun t => (t.response, t.errcode, t.err)) =
    List.replicate 2 (some (some { status := .error, data := some 0 }, 0x03, true)) := by decide +kernel
/-- R264's example: a write while BUSY is dropped with E_ACCESS_BUSY and the command goes on. -/
theorem test_bus_busy :
    (next? (step { State.reset with pendcmd := some 0, inputs := [hostWR 0x1000 5] })).map
      (fun t => (t.errcode, t.busy, t.ram)) = some (0x04, true, []) := by decide +kernel

/-! ## The hypotheses of the obligations can be met -/

theorem witness_EncodeInvertsDecode : decode 0x010053CA = .ok (.gfMul 0x53 0xCA) := by decide
theorem witness_DecodeMatchesOpcodeRow :
    decode 0x020001FF = .ok (.gfExp 511) ∧ 0x020001FF &&& opcodeMask (.gfExp 0) = opcodeMatch (.gfExp 0) := by decide
theorem witness_StepRunsPendingCommand : decode 0x30000007 = .ok (.maskEval 7) := by decide
theorem witness_FetchWordRunsTableCommand : decodeTableWord 32 0x11000080 = some (.rsEnc 128) := by decide
theorem witness_IllegalWordCompletesWithError : decode 0x02000200 = .error .reservedBitSet := by decide
theorem witness_CommandErrorsLeaveState :
    State.reset.err = false ∧ ∃ t, exec (.gfLog 0) State.reset = .next t ∧ t.err = true ∧ t.errcode ≠ 0x0C :=
  ⟨rfl, _, rfl, by decide⟩
/-- NOP meets every clause at once, at the bounds of the addresses kept. -/
theorem witness_CommandsKeepConfiguration :
    (∃ t, exec .nop State.reset = .next t) ∧ (∀ n, Instr.nop ≠ .rsGen n) ∧ Instr.nop ≠ .maskSelect ∧
    (∀ a b, Instr.nop ≠ .gfMul a b) ∧ (∀ k, Instr.nop ≠ .gfExp k) ∧ (∀ a, Instr.nop ≠ .gfLog a) ∧ Instr.nop ≠ .place ∧
    (0x0FFF < 0x1000 ∨ 0x6000 ≤ 0x0FFF) ∧ (0x6000 < 0x1000 ∨ 0x6000 ≤ 0x6000) := by
  refine ⟨⟨_, rfl⟩, ?_⟩; simp
theorem witness_FieldProductLaws : (0x01 : Byte) ≠ 0 ∧ (0xFF : Byte) ≠ 0 := by decide
theorem witness_GfExpStoresPowerOfAlpha : (510 : BitVec 9).toNat ≤ 510 ∧ (511 : BitVec 9) = 511 := by decide
theorem witness_GfLogStoresTheExponent : (0x8E : Byte) ≠ 0 ∧ 254 ≤ 254 ∧ alphaPow 254 = 0x8E ∧ (0 : Byte) = 0 := by
  decide +kernel
theorem witness_RsGenLeavesGenerator : (2 : BitVec 8).toNat < 3 ∧ 1 < (2 : BitVec 8).toNat := by decide
/-- The least and the greatest block, the second with both ranges ending at CW's end. -/
theorem witness_RsEncStoresParity :
    RsEncReady 0 (rsState 0 1 0 2 2 2) ∧ RsEncReady 127 (rsState 127 128 4094 2 4094 2) ∧
    1 < (rsState 0 1 0 2 2 2).genDeg.toNat ∧ 0x1001 < 0x1000 + ((rsState 0 1 0 2 2 2).descriptor 0).eoff := by
  unfold RsEncReady; decide +kernel
theorem witness_RsEncWritesCodeword :
    GenInv (rsState 0 1 0 2 2 2) ∧ RsEncReady 0 (rsState 0 1 0 2 2 2) ∧ 1 < (rsState 0 1 0 2 2 2).genDeg.toNat :=
  ⟨⟨fun _ => rfl, fun h => by cases h⟩, witness_RsEncStoresParity.1, by decide⟩
theorem witness_RsEncChecksInOrder :
    State.reset.genValid = false ∧
    (∀ s ∈ [rsState 0 0 0 2 2 2, rsState 0 129 0 2 2 2], s.genValid = true ∧
      (s.blkCount.toNat = 0 ∨ s.blkCount.toNat > 128)) ∧
    (1 : BitVec 8).toNat ≥ (rsState 0 1 0 2 2 2).blkCount.toNat ∧
    (((rsState 0 1 4095 2 2 2).descriptor 0).doff + ((rsState 0 1 4095 2 2 2).descriptor 0).dlen > 4096 ∧
      ((rsState 0 1 0 2 4095 2).descriptor 0).eoff + ((rsState 0 1 0 2 4095 2).descriptor 0).elen > 4096) ∧
    (((rsState 0 1 4094 2 4095 1).descriptor 0).doff + ((rsState 0 1 4094 2 4095 1).descriptor 0).dlen ≤ 4096 ∧
      ((rsState 0 1 4094 2 4095 1).descriptor 0).eoff + ((rsState 0 1 4094 2 4095 1).descriptor 0).elen ≤ 4096 ∧
      ((rsState 0 1 4094 2 4095 1).descriptor 0).elen ≠ (rsState 0 1 4094 2 4095 1).genDeg.toNat) := by decide +kernel
theorem witness_RsParityIsLinear : ([0x12, 0x34] : List Byte).length = ([0x9A, 0xBC] : List Byte).length := by decide
theorem witness_InterleaveOrder :
    ∃ (hb : 1 < ([[0xA1, 0xA2], [0xB1]] : List (List Byte)).length), 0 < ([[0xA1, 0xA2], [0xB1]] : List (List Byte))[1].length := by
  decide
theorem witness_BitStreamMsbFirst : 3 < (rsState 0 1 0 2 0 2).codewordSequence.length ∧ 7 < 8 := by decide +kernel
theorem witness_TraversalVisitsEachCellOnce :
    (1 ≤ 1 ∧ 1 ≤ 40) ∧ (1 ≤ 40 ∧ 40 ≤ 40) ∧ 20 < 17 + 4 * 1 ∧ 1 < 2 ∧
    (rightColumns (17 + 4 * 1) (16 + 4 * 1))[9]? = some 1 ∧ State.reset.version.toNat = 1 := by decide +kernel

theorem witness_PlaceFillsVisitedCells :
    PlaceReady (gridState 1) ∧ (gridState 1).bitStream.length ≤ (gridState 1).visitOrder.length ∧
    7 < (gridState 1).visitOrder.length ∧ 7 < (gridState 1).bitStream.length ∧
    (16, 20) ∉ (gridState 1).visitOrder.take (gridState 1).bitStream.length := by
  rw [visitOrder_gridState]
  refine ⟨⟨by decide, by decide, tmplOk_gridState _, by decide, by decide, fun b hb => ?_⟩, by decide +kernel⟩
  exact inRange_gridState _ b (Nat.lt_trans hb (by decide))
theorem witness_PlaceOverflowFillsEveryCell :
    PlaceReady (gridState 2) ∧ (gridState 2).visitOrder.length < (gridState 2).bitStream.length ∧
    11 < (gridState 2).visitOrder.length ∧ (0, 0) ∉ (gridState 2).visitOrder := by
  rw [visitOrder_gridState]
  exact ⟨⟨by decide, by decide, tmplOk_gridState _, by decide, by decide, inRange_gridState _⟩, by decide +kernel⟩
/-- A template with the reserved code in its first cell. -/
def badTmpl : State := { State.reset with ram := [(0x8000, 0x03)] }
theorem witness_PlaceChecksInOrder :
    (0 : BitVec 6).toNat < 1 ∧ (41 : BitVec 6).toNat > 40 ∧ (1 ≤ badTmpl.version.toNat ∧ badTmpl.tmplOk = false) ∧
    ((gridState 0).tmplOk = true ∧ (gridState 0).blkCount.toNat = 0) ∧
    ((gridState 129).tmplOk = true ∧ (gridState 129).blkCount.toNat > 128) :=
  ⟨by decide, by decide, by decide +kernel, ⟨tmplOk_gridState _, by decide⟩, tmplOk_gridState _, by decide⟩
/-- PLACE's last check: the last of three descriptors passes the end of CW. -/
theorem witness_PlaceChecksInOrder_desc :
    (gridState 3).tmplOk = true ∧ 2 < (gridState 3).blkCount.toNat ∧
    ((gridState 3).descriptor 2).doff + ((gridState 3).descriptor 2).dlen > 4096 :=
  ⟨tmplOk_gridState _, by decide +kernel⟩
theorem witness_TemplateCheckMeaning :
    (gridState 2).tmplOk = true ∧ State.reset.params.copyB = .both ∧ 14 < 15 ∧ 21 ≤ State.reset.side ∧
    { State.reset.params with copyB := .aOnly }.copyB = .aOnly :=
  ⟨tmplOk_gridState _, rfl, by decide, by decide, rfl⟩
/-- The three kinds of grid command, a byte of no in-grid cell, and an out-of-grid cell in a written byte. -/
theorem witness_GridCommandsKeepOtherMemory :
    (∃ t, exec .place (gridState 2) = .next t) ∧ (∃ t, exec (.maskEval 0) (gridState 2) = .next t) ∧
    (∃ t, exec .maskSelect (gridState 2) = .next t) ∧
    (∀ r c, r < (gridState 2).side → c < (gridState 2).side → 0x1FFF ≠ 0x2000 + 32 * r + c / 8) ∧
    ¬(20 < (gridState 2).side ∧ 21 < (gridState 2).side) ∧
    (gridState 2).ram.read? (0x2000 + 32 * 20 + 21 / 8) ≠ none ∧
    (gridState 2).ram.read? (0x4000 + 32 * 20 + 21 / 8) ≠ none :=
  ⟨⟨_, rfl⟩, ⟨_, rfl⟩, ⟨_, rfl⟩, fun r c _ _ => by omega, by decide, by decide +kernel, by decide +kernel⟩
theorem witness_MaskEvalRealizesAndScores :
    1 ≤ (gridState 2).version.toNat ∧ (gridState 2).version.toNat ≤ 40 ∧ (gridState 2).tmplOk = true ∧
    (gridState 2).params.copyB = .both ∧ (0, 0) ∉ fmtCells (gridState 2).params (gridState 2).side ∧
    (gridState 2).tmplCell 0 0 ≠ 0b10 ∧ (gridState 2).tmplCell 20 20 = 0b10 := by
  refine ⟨by decide, by decide, tmplOk_gridState _, rfl, by decide, by decide +kernel, by decide +kernel⟩
theorem witness_MaskSelectKeepsLowest :
    1 ≤ (gridState 2).version.toNat ∧ (gridState 2).version.toNat ≤ 40 ∧ (gridState 2).tmplOk = true ∧
    (∃ u, exec (.maskEval 7) (gridState 2) = .next u) := ⟨by decide, by decide, tmplOk_gridState _, _, rfl⟩
theorem witness_MaskChecksInOrder :
    (0 : BitVec 6).toNat < 1 ∧ (41 : BitVec 6).toNat > 40 ∧
    1 ≤ badTmpl.version.toNat ∧ badTmpl.version.toNat ≤ 40 ∧ badTmpl.tmplOk = false := by
  refine ⟨by decide, by decide, by decide, by decide, by decide +kernel⟩
theorem witness_NopWritesOnlyCompletion : (1 : BitVec 24) ≠ 0 := by decide
theorem witness_ScoreReportsFourRules :
    { State.reset with version := 0 }.version.toNat < 1 ∧ { State.reset with version := 41 }.version.toNat > 40 ∧
    1 ≤ State.reset.version.toNat ∧ State.reset.version.toNat ≤ 40 ∧
    1 ≤ { State.reset with version := 40 }.version.toNat ∧ { State.reset with version := 40 }.version.toNat ≤ 40 ∧
    20 < State.reset.side := by decide
theorem witness_UniformGridScore :
    1 ≤ (scoreState fun _ _ => true).version.toNat ∧ (scoreState fun _ _ => true).version.toNat ≤ 40 ∧
    ∀ r c, r < (scoreState fun _ _ => true).side → c < (scoreState fun _ _ => true).side →
      (scoreState fun _ _ => true).bitCell 0x4000 r c = true := by
  refine ⟨by decide, by decide, ?_⟩
  have h : ∀ r ∈ List.range 21, ∀ c ∈ List.range 21, (scoreState fun _ _ => true).bitCell 0x4000 r c = true := by
    decide +kernel
  exact fun r c hr hc => h r (List.mem_range.mpr hr) c (List.mem_range.mpr hc)
/-- A match of P1 after `a`, none starting inside `a`; a line without a match; the empty `a` and `b`. -/
theorem witness_StripRemovesWholeMatches :
    patternP1 ≠ [] ∧
    (∀ k, k < [true, false].length → ¬ patternP1 <+: ([true, false] ++ patternP1 ++ [true]).drop k) ∧
    (∀ k, k < ([] : List Bool).length → ¬ patternP2 <+: ([] ++ patternP2 ++ []).drop k) ∧
    ¬ patternP1 <:+: List.replicate 21 true := by decide
/-- CTRL with SRST 1 and 0. -/
theorem witness_CtrlWriteWhileIdle : (0x00000003 : Word).getLsbD 1 = true ∧ (0x00000001 : Word).getLsbD 1 = false := by
  decide
theorem witness_DarkRatioForms :
    0 < 2 ∧ (0 ≤ 2 ∧ 0 = 0) ∧ (1 ≤ 2 ∧ 50 * 2 ≤ 100 * 1 ∧ 100 * 1 < 55 * 2) ∧ (2 ≤ 2 ∧ 2 = 2) := by decide
theorem witness_ScoresStayInBounds : 177 ≤ 177 := by decide
/-- Two states that differ in RESULT and GEN_DEG only. -/
theorem witness_MaskUnitReadsOnlyItsInputs :
    ∃ s s' : State, s ≠ s' ∧ s.version = s'.version ∧ s.fmt = s'.fmt ∧ s.params = s'.params ∧ s.draws = s'.draws ∧
      1 ≤ s.version.toNat ∧ s.version.toNat ≤ 40 ∧ (∀ a, s.ram.read? a = s'.ram.read? a) ∧ s.tmplOk = true :=
  ⟨gridState 2, { gridState 2 with result := 5, genDeg := 9 }, fun h => absurd (congrArg State.result h) (by decide),
    rfl, rfl, rfl, rfl, by decide, by decide, fun _ => rfl, tmplOk_gridState _⟩

/-- A state with a command accepted and one byte written, which meets every invariant and has a next step. -/
def runningState : State := { rsState 0 1 0 2 2 2 with pendcmd := some 0x11000000, errcode := 0x0C, err := true }
theorem witness_StepKeepsRamInv : RamInv runningState ∧ ∃ t, step runningState = .next t :=
  ⟨⟨by decide +kernel, by decide +kernel⟩, _, rfl⟩
theorem witness_StepKeepsGenInv : GenInv runningState ∧ ∃ t, step runningState = .next t :=
  ⟨⟨fun _ => rfl, fun h => by cases h⟩, _, rfl⟩
theorem witness_StepKeepsRegisterInv : RegisterInv runningState ∧ ∃ t, step runningState = .next t :=
  ⟨by unfold RegisterInv; decide +kernel, _, rfl⟩
theorem witness_StepKeepsPenaltyInv : PenaltyInv runningState ∧ ∃ t, step runningState = .next t :=
  ⟨by unfold PenaltyInv; decide +kernel, _, rfl⟩
/-- SRST set, each kind of abandoned command, and the bounds of each clause. -/
theorem witness_SoftResetAbandonsCommand :
    (0x00000002 : Word).getLsbD 1 = true ∧ decode 0x1100007F = .ok (.rsEnc 127) ∧ (127 : BitVec 8).toNat < 128 ∧
    1 < (rsState 127 128 4094 2 4094 2).genDeg.toNat ∧ ((rsState 127 128 4094 2 4094 2).descriptor 127).eoff + 1 < 4096 ∧
    decode 0x20000000 = .ok .place ∧ decode 0x30000000 = .ok (.maskEval 0) ∧ decode 0x31000000 = .ok .maskSelect ∧
    ¬(20 < (gridState 2).side ∧ 21 < (gridState 2).side) ∧
    (gridState 2).ram.read? (0x2000 + 32 * 20 + 21 / 8) ≠ none ∧ decode 0x32000000 = .ok .score := by decide +kernel
theorem witness_BadAccessIsBusError : 3 ≠ 4 ∧ (0x0001 : BitVec 16).toNat % 4 ≠ 0 := by decide
theorem witness_ReservedOffsetsAreBusErrors :
    ∀ a ∈ [0x0088, 0x00FC, 0x0500, 0x07FC, 0x0C00, 0x0FFC, 0x6000, 0x7FFC, 0xC000, 0xFFFC],
      (BitVec.ofNat 16 a).toNat % 4 = 0 ∧ ((0x0088 ≤ a ∧ a ≤ 0x00FF) ∨ (0x0500 ≤ a ∧ a ≤ 0x07FF) ∨
        (0x0C00 ≤ a ∧ a ≤ 0x0FFF) ∨ (0x6000 ≤ a ∧ a ≤ 0x7FFF) ∨ 0xC000 ≤ a) := by decide
theorem witness_ReadsHaveNoSideEffect :
    ∀ a ∈ [0x0000, 0x0084, 0x0100, 0x04FC, 0x0800, 0x0BFC, 0x1000, 0x5FFC, 0x8000, 0xBFFC],
      (BitVec.ofNat 16 a).toNat % 4 = 0 ∧ (a ≤ 0x0087 ∨ (0x0100 ≤ a ∧ a ≤ 0x04FF) ∨ (0x0800 ≤ a ∧ a ≤ 0x0BFF) ∨
        (0x1000 ≤ a ∧ a ≤ 0x5FFF) ∨ (0x8000 ≤ a ∧ a ≤ 0xBFFF)) := by decide
theorem witness_RamWordReadBack :
    (gridState 2).ram.read? 0x1001 = some 0x0F ∧ State.reset.pendcmd = none ∧ ∀ a ∈ [0x0800, 0x0BFC, 0x1000, 0x5FFC, 0x8000, 0xBFFC],
      (BitVec.ofNat 16 a).toNat % 4 = 0 ∧ ((0x0800 ≤ a ∧ a ≤ 0x0BFF) ∨ (0x1000 ≤ a ∧ a ≤ 0x5FFF) ∨
        (0x8000 ≤ a ∧ a ≤ 0xBFFF)) := by decide
theorem witness_BusyWritesAreDropped :
    ∀ a ∈ [0x018, 0x020, 0x060, 0x07C, 0x0800, 0x0BFC, 0x1000, 0x5FFC, 0x8000, 0xBFFC],
      (BitVec.ofNat 16 a).toNat % 4 = 0 ∧ (a = 0x018 ∨ a = 0x020 ∨ (0x060 ≤ a ∧ a ≤ 0x07F) ∨
        (0x0800 ≤ a ∧ a ≤ 0x0BFF) ∨ (0x1000 ≤ a ∧ a ≤ 0x5FFF) ∨ (0x8000 ≤ a ∧ a ≤ 0xBFFF)) := by decide
theorem witness_ReadOnlyWritesIgnored :
    ∀ a ∈ [0x000, 0x00C, 0x014, 0x01C, 0x024, 0x05C, 0x080, 0x084, 0x0100, 0x04FC],
      (BitVec.ofNat 16 a).toNat % 4 = 0 ∧ (a = 0x000 ∨ a = 0x00C ∨ a = 0x014 ∨ a = 0x01C ∨
        (0x024 ≤ a ∧ a ≤ 0x05F) ∨ a = 0x080 ∨ a = 0x084 ∨ (0x0100 ≤ a ∧ a ≤ 0x04FF)) := by decide
theorem witness_ConfigurationWrites : State.reset.pendcmd = none := rfl
theorem witness_RegisterReads :
    State.reset.pendcmd = none ∧ ((0x000 : BitVec 16), (0x51520001 : Word)) ∈ [((0x000 : BitVec 16), (0x51520001 : Word))] := by
  decide
theorem witness_TableReads : 3 < 4 ∧ 63 < 64 ∧ 127 < 128 ∧ State.reset.pendcmd = none ∧ 4 * 127 + 2 ≤ 510 ∧ 4 * 0 + 0 = 0 := by
  decide
theorem witness_AssemblerRefusesMisfits :
    (AsmCommand.gfExp 511).fits = true ∧ (AsmCommand.gfExp 512).fits = false := by decide

end Sys2Proof.Tests
end

section
/-! What a command leaves, said once for all ten commands, and the induction over what a step can do. -/

namespace Sys2Proof.Machine

/-! ## The effect of a command -/

/-- What the rule of a command can do to the state, apart from its completion: nothing, as when a check of it fails, or
what it writes when its checks hold. -/
inductive CommandEffect (s : State) : Instr → State → Prop where
  | nothing (i : Instr) : CommandEffect s i s
  | gfMul (a b : Byte) : CommandEffect s (.gfMul a b) { s with result := Machine.gfMul a b }
  | gfExp (i : BitVec 9) : i.toNat ≤ 510 → CommandEffect s (.gfExp i) { s with result := expAt i.toNat }
  | gfLog (a : Byte) : a ≠ 0 → CommandEffect s (.gfLog a) { s with result := logAt a }
  | rsGen (n : BitVec 8) :
      CommandEffect s (.rsGen n) { s with gen := genStore (generator n.toNat), genDeg := n, genValid := true }
  | rsEnc (blk : BitVec 8) : RsEncReady blk s → CommandEffect s (.rsEnc blk)
      (s.setBytes (cwBase + (s.descriptor blk.toNat).eoff) (s.blockParity blk.toNat))
  | place : PlaceReady s → CommandEffect s .place s.placed
  | maskEval (m : BitVec 3) : s.maskCheck = none → CommandEffect s (.maskEval m) (maskEvaluated m s)
  | maskSelect : s.maskCheck = none → CommandEffect s .maskSelect (maskSelected s)
  | score : s.versionOk = true → CommandEffect s .score (s.setScores (scoreGrid s.params s.side s.realGrid))

/-- A command is its effect followed by its completion, with or without an error (R112). -/
theorem exec_effect {i : Instr} {s t : State} (h : exec i s = .next t) :
    ∃ u, CommandEffect s i u ∧ (t = u.completeOk ∨ ∃ e, t = u.completeErr e) := by
  cases i with
  | nop => injection h with h; exact ⟨s, .nothing _, .inl h.symm⟩
  | gfMul a b => injection h with h; exact ⟨_, .gfMul a b, .inl h.symm⟩
  | gfExp i =>
    injection h with h
    split at h
    · exact ⟨s, .nothing _, .inr ⟨_, h.symm⟩⟩
    · exact ⟨_, .gfExp i (by omega), .inl h.symm⟩
  | gfLog a =>
    injection h with h
    split at h
    · exact ⟨s, .nothing _, .inr ⟨_, h.symm⟩⟩
    · exact ⟨_, .gfLog a (by assumption), .inl h.symm⟩
  | rsGen n => injection h with h; exact ⟨_, .rsGen n, .inl h.symm⟩
  | rsEnc blk =>
    obtain ⟨e, -, ht⟩ | ⟨hc, ht⟩ := execRsEnc_cases h
    · exact ⟨s, .nothing _, .inr ⟨e, ht⟩⟩
    · exact ⟨_, .rsEnc blk ((rsEncCheck_eq_none blk s).mp hc), .inl ht⟩
  | place =>
    obtain ⟨e, -, ht⟩ | ⟨hc, -, ht⟩ | ⟨hc, -, ht⟩ := execPlace_cases h
    · exact ⟨s, .nothing _, .inr ⟨e, ht⟩⟩
    · exact ⟨_, .place ((placeCheck_eq_none s).mp hc), .inr ⟨_, ht⟩⟩
    · exact ⟨_, .place ((placeCheck_eq_none s).mp hc), .inl ht⟩
  | maskEval m =>
    obtain ⟨e, -, ht⟩ | ⟨hc, ht⟩ := execMaskEval_cases h
    · exact ⟨s, .nothing _, .inr ⟨e, ht⟩⟩
    · exact ⟨_, .maskEval m hc, .inl ht⟩
  | maskSelect =>
    obtain ⟨e, -, ht⟩ | ⟨hc, ht⟩ := execMaskSelect_cases h
    · exact ⟨s, .nothing _, .inr ⟨e, ht⟩⟩
    · exact ⟨_, .maskSelect hc, .inl ht⟩
  | score =>
    injection h with h
    split at h
    · exact ⟨_, .score (by assumption), .inl h.symm⟩
    · exact ⟨s, .nothing _, .inr ⟨_, h.symm⟩⟩

/-! ## The induction over what a step can do -/

/-- A property that every elementary update of a step keeps is kept by every step: taking an input off, answering and
failing a bus transaction, the writes of the host, the effects of the commands, their completion, and the two resets. -/
theorem step_keeps {P : State → Prop}
    (takeInput : ∀ s rest, P s → P { s with inputs := rest })
    (respond : ∀ s st d, P s → P (s.respond st d))
    (recordError : ∀ s e, P s → P (s.recordError e))
    (write : ∀ s u, WriteEffect s u → P s → P u)
    (command : ∀ s i u, CommandEffect s i u → P s → P u)
    (completeOk : ∀ s, P s → P s.completeOk)
    (hardReset : ∀ s, P s → P s.hardReset)
    {s t : State} (hs : P s) (h : step s = .next t) : P t := by
  obtain ⟨a, rest, -, rfl⟩ | ⟨rest, -, rfl⟩ | ⟨rest, -, he⟩ := step_cases h
  · have hs' := takeInput s rest hs
    obtain ⟨e, d, -, ht⟩ | ⟨d, ht⟩ | ⟨u, hu, ht⟩ := hostAccess_cases { s with inputs := rest } a
    · exact ht ▸ respond _ _ _ (recordError _ _ hs')
    · exact ht ▸ respond _ _ _ hs'
    · exact ht ▸ respond _ _ _ (write _ _ hu hs')
  · exact hardReset _ (takeInput s rest hs)
  · have hs' := takeInput s rest hs
    obtain ⟨-, rfl⟩ | ⟨w, why, -, -, rfl⟩ | ⟨w, i, -, -, hx⟩ := engineStep_cases he
    · exact hs'
    · exact recordError _ _ (completeOk _ hs')
    · obtain ⟨u, hu, rfl | ⟨e, rfl⟩⟩ := exec_effect hx
      · exact completeOk _ (command _ _ _ hu hs')
      · exact recordError _ _ (completeOk _ (command _ _ _ hu hs'))

end Sys2Proof.Machine
end

section
/-! What the effect of a command leaves as it was: registers, and the RAM outside its destination (spec 10 R27 to R35,
43 R180, 44 R210). -/

namespace Sys2Proof.Machine

section Frame

variable {s u : State} {i : Instr}

/-- No effect touches the configuration, the inputs or the response (R180, R210). -/
theorem CommandEffect.keeps_configuration (h : CommandEffect s i u) :
    u.version = s.version ∧ u.fmt = s.fmt ∧ u.blkCount = s.blkCount ∧ u.ie = s.ie ∧ u.params = s.params ∧
    u.inputs = s.inputs ∧ u.response = s.response := by
  cases h <;> simp [State.placed, maskEvaluated, maskSelected]

/-- GEN, GEN_DEG and GEN_VALID are RS_GEN's alone (R31). -/
theorem CommandEffect.keeps_gen (h : CommandEffect s i u) (hi : ∀ n, i ≠ .rsGen n) :
    u.gen = s.gen ∧ u.genDeg = s.genDeg ∧ u.genValid = s.genValid := by
  cases h with
  | rsGen n => exact absurd rfl (hi n)
  | _ => simp [State.placed, maskEvaluated, maskSelected]

/-- BEST and BEST_VALID are MASK_SELECT's alone (R33). -/
theorem CommandEffect.keeps_best (h : CommandEffect s i u) (hi : i ≠ .maskSelect) :
    u.best = s.best ∧ u.bestValid = s.bestValid := by
  cases h with
  | maskSelect => exact absurd rfl hi
  | _ => simp [State.placed, maskEvaluated]

/-- RESULT is the field commands' alone (R27). -/
theorem CommandEffect.keeps_result (h : CommandEffect s i u) (hm : ∀ a b, i ≠ .gfMul a b) (he : ∀ k, i ≠ .gfExp k)
    (hl : ∀ a, i ≠ .gfLog a) : u.result = s.result := by
  cases h with
  | gfMul a b => exact absurd rfl (hm a b)
  | gfExp k => exact absurd rfl (he k)
  | gfLog a => exact absurd rfl (hl a)
  | _ => simp [State.placed, maskEvaluated, maskSelected]

/-- PLACE_CAP and PLACE_BITS are PLACE's alone (R35). -/
theorem CommandEffect.keeps_counters (h : CommandEffect s i u) (hi : i ≠ .place) :
    u.placeCap = s.placeCap ∧ u.placeBits = s.placeBits := by
  cases h with
  | place => exact absurd rfl hi
  | _ => simp [maskEvaluated, maskSelected]

/-- The flags and the error code are the completion's, not the rule's (R112, R262). -/
theorem CommandEffect.keeps_flags (h : CommandEffect s i u) :
    u.pendcmd = s.pendcmd ∧ u.done = s.done ∧ u.err = s.err ∧ u.errcode = s.errcode := by
  cases h <;> simp [State.placed, maskEvaluated, maskSelected]

end Frame

/-- A word written to the RAM changes the RAM alone (R65). -/
theorem State.setWord_eq (s : State) (a : Nat) (w : Word) : s.setWord a w = { s with ram := (s.setWord a w).ram } :=
  State.setBytes_eq _ _ _

/-! ## The generator store -/

/-- `GenInv` reads GEN, GEN_DEG and GEN_VALID only. -/
theorem GenInv.congr {s t : State} (h : GenInv s) (hg : t.gen = s.gen ∧ t.genDeg = s.genDeg ∧ t.genValid = s.genValid) :
    GenInv t := by
  obtain ⟨hgen, hdeg, hvalid⟩ := hg
  unfold GenInv at *
  rwa [hgen, hdeg, hvalid]

/-- GEN and GEN_DEG are 0 and invalid after a reset (R47). -/
theorem genInv_reset : GenInv State.reset := ⟨fun h => Bool.noConfusion h, fun _ => ⟨rfl, rfl⟩⟩

/-- No write of the host but a soft reset touches the generator store (R29, R36). -/
theorem GenInv.write {s u : State} (hu : WriteEffect s u) (h : GenInv s) : GenInv u := by
  cases hu with
  | softReset => exact genInv_reset.congr ⟨rfl, rfl, rfl⟩
  | ram a v => rw [State.setWord_eq]; exact h
  | _ => exact h

/-- RS_GEN stores the generator of its operand's degree; the other commands leave the store alone (R152). -/
theorem GenInv.command {s u : State} {i : Instr} (hu : CommandEffect s i u) (h : GenInv s) : GenInv u := by
  by_cases hi : ∃ n, i = .rsGen n
  · obtain ⟨n, rfl⟩ := hi
    cases hu with
    | nothing => exact h
    | rsGen => exact ⟨fun _ => rfl, fun hv => Bool.noConfusion hv⟩
  · exact h.congr (hu.keeps_gen fun n hn => hi ⟨n, hn⟩)

/-- Settles O43, by the induction over a step: only RS_GEN and the two resets touch the generator store. -/
theorem stepKeepsGenInv : Obligations.StepKeepsGenInv := fun _ _ hs h =>
  step_keeps (P := GenInv) (fun _ _ h => h) (fun _ _ _ h => h) (fun _ _ h => h) (fun _ _ => GenInv.write)
    (fun _ _ _ => GenInv.command) (fun _ h => h) (fun _ _ => genInv_reset.congr ⟨rfl, rfl, rfl⟩) hs h

end Sys2Proof.Machine
end

section
/-! The size of the traversal and the cells it examines (spec 43 R186), and the relations between the registers. -/

namespace Sys2Proof.Machine

/-! ## The traversal -/

/-- The right columns lie at or left of the first one (R186). -/
theorem le_of_mem_rightColumns {fuel right x : Nat} (h : x ∈ rightColumns fuel right) : x ≤ right := by
  induction fuel generalizing right with
  | zero => cases h
  | succ fuel ih =>
    unfold rightColumns at h
    split at h
    · obtain rfl | h := List.mem_cons.mp h
      · split <;> omega
      · have := ih h
        split at this <;> omega
    · cases h

/-- Every big column takes two columns, the jump over column 6 one more (R186). -/
theorem length_rightColumns_le (fuel right : Nat) : (rightColumns fuel right).length ≤ (right + 1) / 2 := by
  induction fuel generalizing right with
  | zero => exact Nat.zero_le _
  | succ fuel ih =>
    unfold rightColumns
    split
    · refine Nat.le_trans (Nat.succ_le_succ (ih _)) ?_
      split <;> omega
    · exact Nat.zero_le _

/-- A big column has two cells in every row (R186). -/
theorem length_columnCells (n right : Nat) (up : Bool) : (columnCells n right up).length = n * 2 := by
  simp [columnCells, List.length_flatMap]

/-- A big column stays in the grid's rows and in its own two columns (R186). -/
theorem mem_columnCells {n right r c : Nat} {up : Bool} (h : (r, c) ∈ columnCells n right up) : r < n ∧ c ≤ right := by
  simp only [columnCells, List.mem_flatMap, List.mem_range, List.mem_cons, Prod.mk.injEq, List.not_mem_nil,
    or_false] at h
  obtain ⟨v, hv, h⟩ := h
  split at h <;> omega

/-- Every examined cell is an in-grid cell (R187). -/
theorem mem_gridCells_of_mem_traversal {n r c : Nat} (h : (r, c) ∈ traversal n) : r < n ∧ c < n := by
  obtain ⟨⟨right, p⟩, hp, h⟩ := List.mem_flatMap.mp h
  have hr := le_of_mem_rightColumns (List.fst_mem_of_mem_zipIdx hp)
  have hc := mem_columnCells h
  omega

/-- The traversal examines at most N·(N-1) cells of a grid of odd side N (R187). -/
theorem length_traversal_le (n : Nat) : (traversal n).length ≤ (n - 1 + 1) / 2 * (n * 2) := by
  have hs : (traversal n).length = (rightColumns n (n - 1)).length * (n * 2) := by
    simp [traversal, List.length_flatMap, length_columnCells]
  exact hs ▸ Nat.mul_le_mul_right _ (length_rightColumns_le _ _)

/-- The cells to fill are in-grid cells (R187). -/
theorem State.mem_visitOrder {s : State} {r c : Nat} (h : (r, c) ∈ s.visitOrder) : r < s.side ∧ c < s.side :=
  mem_gridCells_of_mem_traversal (List.mem_of_mem_filter h)

/-- A valid VERSION gives a side of 21 to 177 (R28). -/
theorem side_le_of_version_le {s : State} (h : s.version.toNat ≤ 40) : s.side ≤ 177 := by
  unfold State.side; omega

/-- There are at most 177·176 cells to fill (R190). -/
theorem State.length_visitOrder_le {s : State} (h : s.version.toNat ≤ 40) : s.visitOrder.length ≤ 31152 := by
  have hs : s.side ≤ 177 := side_le_of_version_le h
  calc s.visitOrder.length
      ≤ (traversal s.side).length := List.length_filter_le _ _
    _ ≤ (s.side - 1 + 1) / 2 * (s.side * 2) := length_traversal_le _
    _ ≤ 88 * (177 * 2) := Nat.mul_le_mul (by omega) (by omega)

/-! ## The registers -/

/-- The error codes are 0x01 to 0x0C (R261). -/
theorem ErrCode.code_bounds (e : ErrCode) : 1 ≤ e.code.toNat ∧ e.code.toNat ≤ 0x0C := by
  cases e <;> decide

theorem registerInv_reset : RegisterInv State.reset := by unfold RegisterInv; decide

/-- `RegisterInv` reads the flags, the error code, BEST and the placement counters only. -/
theorem RegisterInv.congr {s t : State} (h : RegisterInv s)
    (hf : t.pendcmd = s.pendcmd ∧ t.done = s.done ∧ t.err = s.err ∧ t.errcode = s.errcode)
    (hb : t.best = s.best ∧ t.bestValid = s.bestValid)
    (hp : t.placeCap = s.placeCap ∧ t.placeBits = s.placeBits) : RegisterInv t := by
  obtain ⟨hpend, hdone, herr, hcode⟩ := hf
  unfold RegisterInv State.busy at *
  rwa [hpend, hdone, herr, hcode, hb.1, hb.2, hp.1, hp.2]

/-- A recorded error leaves a listed code (R261, R262). -/
theorem RegisterInv.recordError {s : State} (h : RegisterInv s) (e : ErrCode) : RegisterInv (s.recordError e) := by
  obtain ⟨hdone, -, -, hrest⟩ := h
  exact ⟨hdone, e.code_bounds.2, fun _ => e.code_bounds.1, hrest⟩

/-- A completion ends BUSY (R112). -/
theorem RegisterInv.completeOk {s : State} (h : RegisterInv s) : RegisterInv s.completeOk :=
  ⟨fun hb => Bool.noConfusion hb, h.2⟩

/-- A write of STATUS can only clear DONE and ERR, and an acceptance clears DONE (R24, R111). -/
theorem RegisterInv.write {s u : State} (hu : WriteEffect s u) (h : RegisterInv s) : RegisterInv u := by
  cases hu with
  | softReset => exact registerInv_reset.congr ⟨rfl, rfl, rfl, rfl⟩ ⟨rfl, rfl⟩ ⟨rfl, rfl⟩
  | status v =>
    obtain ⟨hdone, hcode, herr, hrest⟩ := h
    refine ⟨fun hb => ?_, hcode, fun he => herr ?_, hrest⟩
    · simp [hdone hb]
    · simp only [State.writeStatus_err, Bool.and_eq_true] at he
      exact he.1
  | accept v => exact ⟨fun _ => rfl, h.2⟩
  | ram a v => rw [State.setWord_eq]; exact h
  | _ => exact h

/-- BEST stays 0 until valid, since MASK_SELECT makes it valid (R33, R236). -/
theorem CommandEffect.best_eq_zero {s u : State} {i : Instr} (hu : CommandEffect s i u)
    (h : s.bestValid = false → s.best = 0) : u.bestValid = false → u.best = 0 := by
  by_cases hi : i = .maskSelect
  · subst hi
    cases hu with
    | nothing => exact h
    | maskSelect => exact fun hv => Bool.noConfusion hv
  · obtain ⟨hbest, hvalid⟩ := hu.keeps_best hi
    rwa [hbest, hvalid]

/-- PLACE counts no more bits than cells, and no more cells than the largest grid has outside column 6 (R190). -/
theorem State.placed_counters {s : State} (h : s.version.toNat ≤ 40) :
    s.placed.placeBits.toNat ≤ s.placed.placeCap.toNat ∧ s.placed.placeCap.toNat ≤ 31152 := by
  have hlen := State.length_visitOrder_le h
  simp only [State.placed, BitVec.toNat_ofNat]
  omega

/-- The placement counters stay in their bounds (R190). -/
theorem CommandEffect.counters_le {s u : State} {i : Instr} (hu : CommandEffect s i u)
    (h : s.placeBits.toNat ≤ s.placeCap.toNat ∧ s.placeCap.toNat ≤ 31152) :
    u.placeBits.toNat ≤ u.placeCap.toNat ∧ u.placeCap.toNat ≤ 31152 := by
  by_cases hi : i = .place
  · subst hi
    cases hu with
    | nothing => exact h
    | place hr =>
      obtain ⟨-, hversion, -⟩ := hr
      exact State.placed_counters hversion
  · obtain ⟨hcap, hbits⟩ := hu.keeps_counters hi
    rwa [hcap, hbits]

/-- No command's rule touches the flags, and BEST and the placement counters keep their relations. -/
theorem RegisterInv.command {s u : State} {i : Instr} (hu : CommandEffect s i u) (h : RegisterInv s) :
    RegisterInv u := by
  obtain ⟨hdone, hcode, herr, hbest, hplace⟩ := h
  obtain ⟨hp, hd, he, hc⟩ := hu.keeps_flags
  unfold RegisterInv State.busy at *
  rw [hp, hd, he, hc]
  exact ⟨hdone, hcode, herr, hu.best_eq_zero hbest, hu.counters_le hplace⟩

/-- Settles O44, by the induction over a step. -/
theorem stepKeepsRegisterInv : Obligations.StepKeepsRegisterInv := fun _ _ hs h =>
  step_keeps (P := RegisterInv) (fun _ _ h => h) (fun _ _ _ h => h) (fun _ e h => h.recordError e)
    (fun _ _ => RegisterInv.write) (fun _ _ _ => RegisterInv.command) (fun _ => RegisterInv.completeOk)
    (fun _ _ => registerInv_reset.congr ⟨rfl, rfl, rfl, rfl⟩ ⟨rfl, rfl⟩ ⟨rfl, rfl⟩) hs h

end Sys2Proof.Machine
end

section
/-! Bounds of the four penalties (spec 10 R44, 44 R220 to R226), and PENALTY as their sum. -/

namespace Sys2Proof.Machine

/-! ## Sums and sizes -/

/-- A sum of bounded terms is at most the number of terms times the bound. -/
theorem sum_map_le {α : Type} (l : List α) (f : α → Nat) (b : Nat) (h : ∀ x ∈ l, f x ≤ b) :
    (l.map f).sum ≤ l.length * b := by
  simpa using List.sum_le_card_nsmul (l.map f) b (by simpa using h)

/-- There are 2N lines (R217). -/
theorem length_gridLines (n : Nat) (g : Grid) : (gridLines n g).length = 2 * n := by
  simp [gridLines, gridOf]; omega

/-- Every line has N cells (R217). -/
theorem length_of_mem_gridLines {n : Nat} {g : Grid} {l : List Bool} (h : l ∈ gridLines n g) : l.length = n := by
  simp only [gridLines, gridOf, List.mem_append, List.mem_map] at h
  obtain ⟨_, _, rfl⟩ | ⟨_, _, rfl⟩ := h <;> simp

/-- There are N·N in-grid cells. -/
theorem length_gridCells (n : Nat) : (gridCells n).length = n * n := by
  simp [gridCells, List.length_flatMap]

/-! ## Rule 1 -/

/-- Cutting a line into runs never gives more than one run of the whole length (R220). -/
theorem runsFrom_le (b : Bool) (len : Nat) (l : List Bool) : runsFrom b len l ≤ len + l.length - 2 := by
  induction l generalizing b len with
  | nil => simp only [runsFrom, runPenalty]; split <;> simp
  | cons x rest ih =>
    simp only [runsFrom, List.length_cons]
    split
    · have := ih b (len + 1); omega
    · have hrest := ih x 1
      have hrun : runPenalty len ≤ len - 2 := by unfold runPenalty; split <;> omega
      omega

theorem runs_le (l : List Bool) : runs l ≤ l.length - 2 := by
  cases l with
  | nil => exact Nat.zero_le _
  | cons x rest => exact (runsFrom_le x 1 rest).trans (by simp; omega)

/-- R1 is at most N - 2 for each of the 2N lines (R44). -/
theorem rule1_le (n : Nat) (g : Grid) : rule1 n g ≤ 2 * n * (n - 2) := by
  rw [← length_gridLines n g]
  refine sum_map_le _ _ _ fun l hl => ?_
  rw [← length_of_mem_gridLines hl]
  exact runs_le l

/-! ## Rule 2 -/

/-- R2 is at most 3 for each of the (N-1)² windows (R44). -/
theorem rule2_le (n : Nat) (g : Grid) : rule2 n g ≤ (n - 1) * (n - 1) * 3 := by
  rw [← length_gridCells]
  refine sum_map_le _ _ _ fun rc _ => ?_
  unfold blockPenalty; split <;> omega

/-! ## Rule 3 -/

/-- Counted matches do not overlap: together they are no longer than the line (R224). -/
theorem length_mul_countFrom_le {p : List Bool} (hp : p ≠ []) (s : List Bool) :
    p.length * countFrom p 0 s ≤ s.length := by
  induction hn : s.length using Nat.strong_induction_on generalizing s with
  | _ n ih =>
    subst hn
    by_cases hm : p <+: s
    · have hlen := hm.length_le
      have hpos := List.length_pos_iff.mpr hp
      have hrest := ih (s.drop p.length).length (by rw [List.length_drop]; omega) _ rfl
      rw [List.length_drop] at hrest
      rw [countFrom_of_prefix hp hm, Nat.mul_add]
      omega
    · cases s with
      | nil => simp [countFrom]
      | cons x rest =>
        rw [countFrom_cons_of_not_prefix hm]
        exact (ih rest.length (by simp) rest rfl).trans (by simp)

/-- The matches on a line as a multiple of N div 11: one under STRIP, one for each pattern under COUNT (log 14). -/
def line3Factor : Config.Rule3Semantics → Nat
  | .strip => 1
  | .count => 2

theorem line3_le (sem : Config.Rule3Semantics) (s : List Bool) : line3 sem s ≤ line3Factor sem * (s.length / 11) := by
  cases sem with
  | strip =>
    simp only [line3, line3Factor, Nat.one_mul]
    exact Nat.div_le_div_right (Nat.sub_le _ _)
  | count =>
    have h1 : 11 * countFrom patternP1 0 s ≤ s.length := length_mul_countFrom_le (p := patternP1) (by decide) s
    have h2 : 11 * countFrom patternP2 0 s ≤ s.length := length_mul_countFrom_le (p := patternP2) (by decide) s
    simp only [line3, line3Factor]
    omega

/-- R3 is at most 40 for each match that the 2N lines can hold (R44; log 14). -/
theorem rule3_le (sem : Config.Rule3Semantics) (n : Nat) (g : Grid) :
    rule3 sem n g ≤ 40 * (2 * n * (line3Factor sem * (n / 11))) := by
  rw [← length_gridLines n g]
  refine Nat.mul_le_mul_left _ (sum_map_le _ _ _ fun l hl => ?_)
  rw [← length_of_mem_gridLines hl]
  exact line3_le sem l

/-! ## Rule 4 -/

/-- R4 is at most 100, since 20 times a part is at most 20 times the whole (R44). -/
theorem rule4_le (n : Nat) (g : Grid) : rule4 n g ≤ 100 := by
  have hdark : darkCount n g ≤ n * n := (List.length_filter_le _ _).trans (length_gridCells n).le
  have hq : 20 * darkCount n g / (n * n) ≤ 20 := Nat.div_le_of_le_mul (by rw [Nat.mul_comm]; gcongr)
  unfold rule4 darkPenalty
  generalize 20 * darkCount n g / (n * n) = q at hq
  omega

/-! ## The bounds of R44 -/

/-- Settles O40: each rule's bound grows with N, so its value at N = 177 bounds every grid. -/
theorem scoresStayInBounds : Obligations.ScoresStayInBounds := by
  intro n g hn
  have h1 : rule1 n g ≤ 61950 :=
    calc rule1 n g ≤ 2 * n * (n - 2) := rule1_le n g
      _ ≤ 2 * 177 * (177 - 2) := by gcongr
  have h2 : rule2 n g ≤ 92928 :=
    calc rule2 n g ≤ (n - 1) * (n - 1) * 3 := rule2_le n g
      _ ≤ (177 - 1) * (177 - 1) * 3 := by gcongr
  have h3 (sem : Config.Rule3Semantics) : rule3 sem n g ≤ line3Factor sem * 226560 :=
    calc rule3 sem n g
        ≤ 40 * (2 * n * (line3Factor sem * (n / 11))) := rule3_le sem n g
      _ ≤ 40 * (2 * 177 * (line3Factor sem * (177 / 11))) := by gcongr
      _ = line3Factor sem * 226560 := by omega
  have h4 := rule4_le n g
  have hstrip : rule3 .strip n g ≤ 1 * 226560 := h3 .strip
  have hcount : rule3 .count n g ≤ 2 * 226560 := h3 .count
  exact ⟨h1, h2, by omega, h4, by omega, hcount⟩

/-! ## PENALTY -/

/-- PENALTY is the sum when all five score registers are 0, as after a reset (R47). -/
theorem penaltyInv_of_zero {s : State} (hp : s.penalty = 0) (h1 : s.r1 = 0) (h2 : s.r2 = 0) (h3 : s.r3 = 0)
    (h4 : s.r4 = 0) : PenaltyInv s := by
  simp [PenaltyInv, hp, h1, h2, h3, h4]

/-- `PenaltyInv` reads the parameters and the five score registers only. -/
theorem PenaltyInv.congr {s t : State} (h : PenaltyInv s) (hparams : t.params = s.params)
    (hpenalty : t.penalty = s.penalty) (h1 : t.r1 = s.r1) (h2 : t.r2 = s.r2) (h3 : t.r3 = s.r3) (h4 : t.r4 = s.r4) :
    PenaltyInv t := by
  unfold PenaltyInv at *
  rwa [hparams, hpenalty, h1, h2, h3, h4]

/-- The score registers hold the four values of a grid of a valid VERSION and their sum without overflow (R32, R44). -/
theorem penaltyInv_setScores (s : State) {n : Nat} (g : Grid) (hn : n ≤ 177) :
    PenaltyInv (s.setScores (scoreGrid s.params n g)) := by
  obtain ⟨h1, h2, h3, h4, hsum, hcount⟩ := scoresStayInBounds n g hn
  cases hsem : s.params.rule3 <;>
    simp only [PenaltyInv, State.setScores, scoreGrid, scoreTotal, BitVec.toNat_ofNat, hsem, reduceCtorEq,
      false_implies, and_true, true_implies] <;>
    omega

theorem PenaltyInv.write {s u : State} (hu : WriteEffect s u) (h : PenaltyInv s) : PenaltyInv u := by
  cases hu with
  | softReset => exact penaltyInv_of_zero rfl rfl rfl rfl rfl
  | ram a v => rw [State.setWord_eq]; exact h
  | _ => exact h

/-- The scoring commands store the scores of a grid of a valid VERSION; the other commands leave the registers alone. -/
theorem PenaltyInv.command {s u : State} {i : Instr} (hu : CommandEffect s i u) (h : PenaltyInv s) :
    PenaltyInv u := by
  cases hu with
  | maskEval m hc =>
    obtain ⟨-, hversion, -⟩ := (maskCheck_eq_none s).mp hc
    exact (penaltyInv_setScores s (s.realize m) (side_le_of_version_le hversion)).congr
      (by simp [maskEvaluated]) rfl rfl rfl rfl rfl
  | maskSelect hc =>
    obtain ⟨-, hversion, -⟩ := (maskCheck_eq_none s).mp hc
    exact (penaltyInv_setScores s (s.realize s.selectedMask) (side_le_of_version_le hversion)).congr
      (by simp [maskSelected]) rfl rfl rfl rfl rfl
  | score hv =>
    have hversion : s.version.toNat ≤ 40 := by
      simp only [State.versionOk, Bool.and_eq_true, decide_eq_true_eq] at hv
      exact hv.2
    exact penaltyInv_setScores s s.realGrid (side_le_of_version_le hversion)
  | _ => refine h.congr ?_ ?_ ?_ ?_ ?_ ?_ <;> simp [State.placed]

/-- Settles O45, by the induction over a step. -/
theorem stepKeepsPenaltyInv : Obligations.StepKeepsPenaltyInv := fun _ _ hs h =>
  step_keeps (P := PenaltyInv) (fun _ _ h => h) (fun _ _ _ h => h) (fun _ _ h => h)
    (fun _ _ => PenaltyInv.write) (fun _ _ _ => PenaltyInv.command) (fun _ h => h)
    (fun _ _ => penaltyInv_of_zero rfl rfl rfl rfl rfl) hs h

end Sys2Proof.Machine
end

section
/-! The RAM a command leaves as it was (spec 10 R41 to R43, 42 R165, 43 R189, 44 R232, R236). -/

namespace Sys2Proof.Machine

/-! ## The grid commands -/

/-- Every listed cell is an in-grid cell of a grid of side `n`, and `n` that of a valid VERSION at most. -/
def CellsInGrid (n : Nat) (cells : List CellValue) : Prop := ∀ e ∈ cells, e.1.1 < n ∧ e.1.2 < n ∧ n ≤ 177

/-- PLACE writes in-grid cells: it clears all of them and fills those it visits (R189). -/
theorem cellsInGrid_placeWrites {s : State} (h : s.version.toNat ≤ 40) : CellsInGrid s.side s.placeWrites := by
  rintro ⟨⟨r, c⟩, v⟩ he
  have hcell : r < s.side ∧ c < s.side := by
    obtain he | he := List.mem_append.mp he
    · obtain ⟨rc, hrc, heq⟩ := List.mem_map.mp he
      obtain rfl : rc = (r, c) := (Prod.mk.inj heq).1
      exact (mem_gridCells _ r c).mp hrc
    · exact State.mem_visitOrder (List.of_mem_zip he).1
  exact ⟨hcell.1, hcell.2, side_le_of_version_le h⟩

/-- The mask commands write the in-grid cells (R232, R236). -/
theorem cellsInGrid_gridWrites {s : State} (g : Grid) (h : s.version.toNat ≤ 40) :
    CellsInGrid s.side (gridWrites s.side g) := by
  intro e he
  obtain ⟨⟨r, c⟩, hrc, rfl⟩ := List.mem_map.mp he
  obtain ⟨hr, hc⟩ := (mem_gridCells _ r c).mp hrc
  exact ⟨hr, hc, side_le_of_version_le h⟩

/-- The grid a command writes: SHADOW for PLACE, REAL for MASK_EVAL and MASK_SELECT (R189, R232, R236). -/
def gridBase : Instr → Option Nat
  | .place => some shadowBase
  | .maskEval _ => some realBase
  | .maskSelect => some realBase
  | _ => none

theorem gridBase_eq {i : Instr} {base : Nat} (h : gridBase i = some base) : base = 0x2000 ∨ base = 0x4000 := by
  cases i with
  | place => exact .inl (Option.some.inj h).symm
  | maskEval | maskSelect => exact .inr (Option.some.inj h).symm
  | _ => cases h

/-- All that a grid command does to the RAM is to write in-grid cells of its grid. -/
theorem CommandEffect.ram_eq_writeCells {s u : State} {i : Instr} {base : Nat} (hu : CommandEffect s i u)
    (hb : gridBase i = some base) : ∃ cells, CellsInGrid s.side cells ∧ u.ram = (s.writeCells base cells).ram := by
  cases hu with
  | nothing => exact ⟨[], fun e he => absurd he (List.not_mem_nil), rfl⟩
  | place hr =>
    obtain rfl := Option.some.inj hb
    obtain ⟨-, hversion, -⟩ := hr
    exact ⟨_, cellsInGrid_placeWrites hversion, rfl⟩
  | maskEval m hc =>
    obtain rfl := Option.some.inj hb
    obtain ⟨-, hversion, -⟩ := (maskCheck_eq_none s).mp hc
    exact ⟨_, cellsInGrid_gridWrites _ hversion, rfl⟩
  | maskSelect hc =>
    obtain rfl := Option.some.inj hb
    obtain ⟨-, hversion, -⟩ := (maskCheck_eq_none s).mp hc
    exact ⟨_, cellsInGrid_gridWrites _ hversion, rfl⟩
  | _ => cases hb

/-- Writing in-grid cells leaves a byte that holds none of them as it was. -/
theorem CellsInGrid.read?_writeCells {s : State} {base a : Nat} {cells : List CellValue}
    (h : CellsInGrid s.side cells) (ha : ∀ r c, r < s.side → c < s.side → a ≠ base + 32 * r + c / 8) :
    (s.writeCells base cells).ram.read? a = s.ram.read? a := by
  refine State.read?_writeCells_of_notMem s base cells a fun e he => ?_
  obtain ⟨hrow, hcol, -⟩ := h e he
  exact ha _ _ hrow hcol

/-- Writing in-grid cells leaves every out-of-grid cell in a written byte as it was. -/
theorem CellsInGrid.bitCell_writeCells {s t : State} {base r c : Nat} {cells : List CellValue}
    (h : CellsInGrid s.side cells) (ht : t.ram = (s.writeCells base cells).ram) (hc : c < 256)
    (hout : ¬(r < s.side ∧ c < s.side)) (hw : s.ram.read? (bitCellOffset base r c) ≠ none) :
    t.bitCell base r c = s.bitCell base r c :=
  calc t.bitCell base r c
      = (s.writeCells base cells).bitCell base r c :=
        State.bitCell_eq_of_read? (by rw [ht]) (State.read?_writeCells_ne_none s base cells _ hw)
    _ = s.bitCell base r c := by
        refine State.bitCell_writeCells_of_notMem s base cells r c (fun e he => ?_) hc fun e he heq => ?_
        · obtain ⟨-, hcol, hside⟩ := h e he
          omega
        · obtain ⟨hrow, hcol, -⟩ := h e he
          exact hout (by rw [heq] at hrow hcol; exact ⟨hrow, hcol⟩)

/-- A completion, with or without an error, leaves the RAM to the command's rule (R112). -/
theorem exec_ram {i : Instr} {s t : State} (h : exec i s = .next t) : ∃ u, CommandEffect s i u ∧ t.ram = u.ram := by
  obtain ⟨u, hu, rfl | ⟨e, rfl⟩⟩ := exec_effect h <;> exact ⟨u, hu, rfl⟩

/-- Settles O31: what a grid command does to the RAM is a list of writes to in-grid cells. -/
theorem gridCommandsKeepOtherMemory : Obligations.GridCommandsKeepOtherMemory := by
  refine ⟨fun _ _ _ _ => rfl, fun i base s t hi h => ?_⟩
  have hb : gridBase i = some base := by
    obtain ⟨rfl, rfl⟩ | ⟨⟨m, rfl⟩, rfl⟩ | ⟨rfl, rfl⟩ := hi <;> rfl
  obtain ⟨u, hu, ht⟩ := exec_ram h
  obtain ⟨cells, hcells, hram⟩ := hu.ram_eq_writeCells hb
  rw [hram] at ht
  exact ⟨fun a ha => by rw [ht]; exact hcells.read?_writeCells ha,
    fun r c _ hc hout hw => hcells.bitCell_writeCells ht hc hout hw⟩

/-! ## All commands -/

/-- No command writes outside CW, SHADOW and REAL: RS_ENC stores GEN_DEG = ELEN codewords from EOFF on, within CW, and the
grid commands in-grid cells of their grid (R165, R189, R232). -/
theorem CommandEffect.read?_of_outside {s u : State} {i : Instr} (hu : CommandEffect s i u) {a : Nat}
    (ha : a < 0x1000 ∨ 0x6000 ≤ a) : u.ram.read? a = s.ram.read? a := by
  cases hb : gridBase i with
  | some base =>
    obtain ⟨cells, hcells, hram⟩ := hu.ram_eq_writeCells hb
    have hbase := gridBase_eq hb
    rw [hram]
    refine State.read?_writeCells_of_notMem s base cells a fun e he => ?_
    obtain ⟨hrow, hcol, hside⟩ := hcells e he
    unfold bitCellOffset
    omega
  | none =>
    cases hu with
    | rsEnc blk hr =>
      obtain ⟨-, -, -, -, -, hrange, hlen⟩ := hr
      have hparity : (s.blockParity blk.toNat).length = s.genDeg.toNat := by
        rw [State.blockParity, rsParity_length, State.genTail_length]
      rw [State.read?_setBytes, if_neg]
      unfold cwBase
      omega
    | place | maskEval | maskSelect => cases hb
    | _ => rfl

/-- Settles O13: each register group is kept by every effect but those of its own commands, and by every completion. -/
theorem commandsKeepConfiguration : Obligations.CommandsKeepConfiguration := by
  intro i s t h
  obtain ⟨u, hu, ht⟩ := exec_effect h
  obtain ⟨hversion, hfmt, hblk, hie, hparams, hinputs, hresponse⟩ := hu.keeps_configuration
  obtain rfl | ⟨e, rfl⟩ := ht <;>
    exact ⟨hversion, hfmt, hblk, hie, hparams, hinputs, hresponse, hu.keeps_gen, hu.keeps_best, hu.keeps_result,
      hu.keeps_counters, fun _ => hu.read?_of_outside⟩

end Sys2Proof.Machine
end

section
/-! Single transactions of the host: writes that are ignored or keep listed bits, and what each read returns (spec 10
R22 to R38, 20 R62, R68). -/

namespace Sys2Proof.Machine

/-! ## Writes -/

/-- An aligned write is the write of the location it decodes to, whatever is pending behind it (R60). -/
theorem step_write (s : State) {off : BitVec 16} {l : Location} (v : Word) (rest : List Input)
    (h4 : off.toNat % 4 = 0) (hl : locate off.toNat = l) :
    step { s with inputs := hostWR off v :: rest } = .next ({ s with inputs := rest }.hostWrite l v) :=
  hl ▸ step_hostWR rfl h4

/-- The locations whose writes are ignored (R29). -/
def Location.readOnly : Location → Bool
  | .ctrl | .status | .cmd | .version | .blkCount | .fmt _ | .ram _ | .reserved => false
  | _ => true

theorem hostWrite_of_readOnly (s : State) {l : Location} (v : Word) (h : l.readOnly = true) :
    s.hostWrite l v = s.afterOkay none := by
  cases l with
  | ctrl | status | cmd | version | blkCount | fmt | ram | reserved => cases h
  | _ => rfl

/-- The single registers from GEN_DEG to BEST stand at the multiples of 4 from 0x24 to 0x3C, all of them read-only. -/
theorem readOnly_locate_results {a : Nat} (h4 : a % 4 = 0) (h : 0x024 ≤ a ∧ a ≤ 0x03F) :
    (locate a).readOnly = true := by
  obtain ⟨q, rfl⟩ := Nat.dvd_of_mod_eq_zero h4
  obtain ⟨hlo, hhi⟩ : 9 ≤ q ∧ q ≤ 15 := by omega
  interval_cases q <;> rfl

/-- PEN[m] stands at 0x40 + 4·m (R33). -/
theorem readOnly_locate_pen {a : Nat} (h4 : a % 4 = 0) (h : 0x040 ≤ a ∧ a ≤ 0x05F) : (locate a).readOnly = true := by
  have ha : a = 0x040 + 4 * (BitVec.ofNat 3 ((a - 0x040) / 4)).toNat := by
    rw [BitVec.toNat_ofNat]; omega
  rw [ha, locate_pen]
  rfl

/-- The generator store and the two ROMs are read-only (R29, R36 to R38). -/
theorem readOnly_locate_tables {a : Nat} (h : 0x0100 ≤ a ∧ a ≤ 0x04FF) : (locate a).readOnly = true := by
  obtain hg | he | hl : a ≤ 0x01FF ∨ (0x0200 ≤ a ∧ a ≤ 0x03FF) ∨ 0x0400 ≤ a := by omega
  · rw [locate_gen h.1 hg]; rfl
  · rw [locate_exp he.1 he.2]; rfl
  · rw [locate_log hl h.2]; rfl

/-- Settles O55: every listed offset decodes to a read-only location. -/
theorem readOnlyWritesIgnored : Obligations.ReadOnlyWritesIgnored := by
  intro s off v rest h4 h
  rw [step_write s v rest h4 rfl]
  refine congrArg _ (hostWrite_of_readOnly _ v ?_)
  obtain h | h | h | h | h | h | h | h := h
  · rw [h]; rfl
  · rw [h]; rfl
  · rw [h]; rfl
  · rw [h]; rfl
  · by_cases hp : 0x040 ≤ off.toNat
    · exact readOnly_locate_pen h4 ⟨hp, h.2⟩
    · exact readOnly_locate_results h4 ⟨h.1, by omega⟩
  · rw [h]; rfl
  · rw [h]; rfl
  · exact readOnly_locate_tables h

/-- With SRST = 1 an IDLE block is reset but for its RAM and the model's own fields (R291): it has no command whose cells
could become unspecified. -/
theorem writeCtrl_srst {s : State} {v : Word} (hidle : s.pendcmd = none) (hv : v.getLsbD 1 = true) :
    s.writeCtrl v = { State.reset with
      params := s.params, ram := s.ram, inputs := s.inputs, response := s.response, draws := s.draws } := by
  have hram : s.abandonedRam = s.ram := by simp [State.abandonedRam, hidle]
  rw [State.writeCtrl, if_pos hv, State.softReset, hram]

/-- With SRST = 0 a write of CTRL writes IE alone (R23). -/
theorem writeCtrl_ie {s : State} {v : Word} (hv : v.getLsbD 1 = false) :
    s.writeCtrl v = { s with ie := v.getLsbD 0 } := by
  rw [State.writeCtrl, hv]; rfl

/-- Settles O48: the write is the soft reset of R291 or the write of IE, by bit 1 of its value. -/
theorem ctrlWriteWhileIdle : Obligations.CtrlWriteWhileIdle := by
  refine fun s v rest => ⟨fun hv => ?_, fun hv => ?_⟩
  · rw [step_write { s with pendcmd := none } v rest rfl rfl]
    exact congrArg _ (congrArg (State.afterOkay · none) (writeCtrl_srst rfl hv))
  · rw [step_write s v rest rfl rfl]
    exact congrArg _ (congrArg (State.afterOkay · none) (writeCtrl_ie hv))

/-- Settles O56: STATUS stands at 0x08, and its write is R24's in every state. -/
theorem statusWriteOneToClear : Obligations.StatusWriteOneToClear := fun s v rest =>
  step_write s v rest rfl rfl

/-! ## Reads -/

/-- A read of a location that is not reserved answers with its value, while IDLE or where R68 says it is exact. -/
theorem step_read (s : State) {off : BitVec 16} {l : Location} (rest : List Input) (h4 : off.toNat % 4 = 0)
    (hl : locate off.toNat = l) (hr : l ≠ .reserved) (hx : s.pendcmd = none ∨ l.exactWhileBusy = true) :
    step { s with inputs := hostRD off :: rest } =
      .next ({ s with inputs := rest }.afterOkay (some ({ s with inputs := rest }.readValue l))) := by
  have hstep : step { s with inputs := hostRD off :: rest } =
      .next ({ s with inputs := rest }.hostRead (locate off.toNat)) := step_hostRD rfl h4
  rw [hstep, hl, hostRead_eq _ _ hr]
  obtain hidle | hexact := hx
  · rw [busRead_idle { s with inputs := rest } l hidle]
  · rw [busRead_exact { s with inputs := rest } l hexact]

/-- An offset of the 64 KiB window as a number is itself (R61). -/
theorem toNat_offset {a : Nat} (h : a < 65536) : (BitVec.ofNat 16 a).toNat = a := by
  rw [BitVec.toNat_ofNat, Nat.mod_eq_of_lt h]

/-- The offset of entry `m` of a register bank below 0x100. -/
theorem toNat_bankOffset {base : Nat} (m : BitVec 3) (hb : base < 0x100) :
    (BitVec.ofNat 16 (base + 4 * m.toNat)).toNat = base + 4 * m.toNat := toNat_offset (by omega)

theorem locate_fmtOffset (m : BitVec 3) : locate (BitVec.ofNat 16 (0x060 + 4 * m.toNat)).toNat = .fmt m := by
  rw [toNat_bankOffset m (by omega), locate_fmt]

theorem locate_penOffset (m : BitVec 3) : locate (BitVec.ofNat 16 (0x040 + 4 * m.toNat)).toNat = .pen m := by
  rw [toNat_bankOffset m (by omega), locate_pen]

/-- STATUS is the sum of its flags, each at its bit's weight (R24). -/
theorem statusWord_eq (s : State) :
    s.statusWord = BitVec.ofNat 32 (s.busy.toNat + 2 * s.done.toNat + 4 * s.err.toNat + 8 * s.genValid.toNat +
      16 * s.bestValid.toNat) := by
  have h : ∀ b0 b1 b2 b3 b4 : Bool,
      (0 : BitVec 27) ++ BitVec.ofBool b4 ++ BitVec.ofBool b3 ++ BitVec.ofBool b2 ++ BitVec.ofBool b1 ++
          BitVec.ofBool b0 =
        BitVec.ofNat 32 (b0.toNat + 2 * b1.toNat + 4 * b2.toNat + 8 * b3.toNat + 16 * b4.toNat) := by decide
  exact h _ _ _ _ _

/-- CTRL shows IE alone (R23). -/
theorem ctrlWord_eq (s : State) : s.ctrlWord = (BitVec.ofBool s.ie).setWidth 32 := by
  have h : ∀ b : Bool, (0 : BitVec 31) ++ BitVec.ofBool b = (BitVec.ofBool b).setWidth 32 := by decide
  exact h _

/-- Settles O57: while IDLE each write is performed, and SIZE is computed from the stored VERSION. -/
theorem configurationWrites : Obligations.ConfigurationWrites := by
  intro s v m rest hidle
  refine ⟨?_, ?_, ?_, ?_⟩
  · rw [step_write s v rest rfl rfl]
    exact congrArg _ (writeWhenIdle_idle { s with inputs := rest } v _ hidle)
  · rw [step_read { s with version := v.setWidth 6 } (l := .size) rest rfl rfl (by decide) (.inr rfl)]
    simp [State.readValue, State.side]
  · rw [step_write s v rest rfl rfl]
    exact congrArg _ (writeWhenIdle_idle { s with inputs := rest } v _ hidle)
  · rw [step_write s v rest (by rw [toNat_bankOffset m (by omega)]; omega) (locate_fmtOffset m)]
    exact congrArg _ (writeWhenIdle_idle { s with inputs := rest } v _ hidle)

/-- Settles O58: each offset is read by `step_read`; only CTRL and STATUS are not the stored value as it stands. -/
theorem registerReads : Obligations.RegisterReads := by
  intro s m rest
  simp only [List.forall_mem_cons, List.not_mem_nil, false_implies, implies_true, and_true]
  refine ⟨⟨?_, ?_, ?_, ?_, ?_, ?_, ?_, ?_, ?_⟩, fun hidle => ⟨?_, ?_, ?_, ?_, ?_, ?_, ?_, ?_, ?_, ?_, ?_⟩⟩
  · exact step_read s (l := .id) rest rfl rfl (by decide) (.inr rfl)
  · rw [← ctrlWord_eq]
    exact step_read s (l := .ctrl) rest rfl rfl (by decide) (.inr rfl)
  · rw [← statusWord_eq]
    exact step_read s (l := .status) rest rfl rfl (by decide) (.inr rfl)
  · exact step_read s (l := .errcode) rest rfl rfl (by decide) (.inr rfl)
  · exact step_read s (l := .cmd) rest rfl rfl (by decide) (.inr rfl)
  · exact step_read s (l := .version) rest rfl rfl (by decide) (.inr rfl)
  · exact step_read s (l := .size) rest rfl rfl (by decide) (.inr rfl)
  · exact step_read s (l := .blkCount) rest rfl rfl (by decide) (.inr rfl)
  · exact step_read s rest (by rw [toNat_bankOffset m (by omega)]; omega) (locate_fmtOffset m) (by simp) (.inr rfl)
  · exact step_read s (l := .result) rest rfl rfl (by decide) (.inl hidle)
  · exact step_read s (l := .genDeg) rest rfl rfl (by decide) (.inl hidle)
  · exact step_read s (l := .penalty) rest rfl rfl (by decide) (.inl hidle)
  · exact step_read s (l := .r1) rest rfl rfl (by decide) (.inl hidle)
  · exact step_read s (l := .r2) rest rfl rfl (by decide) (.inl hidle)
  · exact step_read s (l := .r3) rest rfl rfl (by decide) (.inl hidle)
  · exact step_read s (l := .r4) rest rfl rfl (by decide) (.inl hidle)
  · exact step_read s (l := .best) rest rfl rfl (by decide) (.inl hidle)
  · exact step_read s rest (by rw [toNat_bankOffset m (by omega)]; omega) (locate_penOffset m) (by simp) (.inl hidle)
  · exact step_read s (l := .placeCap) rest rfl rfl (by decide) (.inl hidle)
  · exact step_read s (l := .placeBits) rest rfl rfl (by decide) (.inl hidle)

/-! ## The table windows -/

/-- Byte k of a word made of four bytes (R62). -/
theorem extract_wordOfBytes (f : Nat → Byte) {k : Nat} (hk : k < 4) :
    (wordOfBytes (f 0) (f 1) (f 2) (f 3)).extractLsb' (8 * k) 8 = f k := by
  apply BitVec.eq_of_getLsbD_eq
  intro i hi
  simp only [wordOfBytes, BitVec.getLsbD_append, BitVec.getLsbD_extractLsb']
  interval_cases k <;> interval_cases i <;> simp

/-- EXP[i] is the power of α, and the last byte of its window 0x00 (R37). -/
theorem expAt_eq {i : Nat} (h : i < 512) : expAt i = if i ≤ 510 then alphaPow (i % 255) else 0x00 := by
  split
  · rw [alphaPow_mod, expAt_eq_alphaPow (by assumption)]
  · obtain rfl : i = 511 := by omega
    exact expAt_511

/-- LOG[0] is 0x00 (R38). -/
theorem logAt_zero : logAt 0 = 0x00 := rfl

/-- For a ≠ 0, LOG[a] is an exponent of a in 0..254 (R38). -/
theorem alphaPow_logAt_ofNat {a : Nat} (h0 : 0 < a) (h : a < 256) :
    (logAt (BitVec.ofNat 8 a)).toNat ≤ 254 ∧ alphaPow (logAt (BitVec.ofNat 8 a)).toNat = BitVec.ofNat 8 a := by
  have hne : BitVec.ofNat 8 a ≠ 0 := by
    intro heq
    have hmod : a % 256 = 0 := congrArg BitVec.toNat heq
    omega
  exact (alphaPow_logAt hne).symm

/-- Settles O59: a word of a window is the four bytes of its table from the word's offset on. -/
theorem tableReads : Obligations.TableReads := by
  intro s k rest hk
  refine ⟨fun j hj hidle => ?_, fun j hj => ?_, fun j hj => ?_⟩
  · have hoff : (BitVec.ofNat 16 (0x100 + 4 * j)).toNat = 0x100 + 4 * j := toNat_offset (by omega)
    have hl : locate (BitVec.ofNat 16 (0x100 + 4 * j)).toNat = .gen (4 * j) := by
      rw [hoff, locate_gen (by omega) (by omega), Nat.add_sub_cancel_left]
    exact ⟨_, step_read s rest (by omega) hl (by simp) (.inl hidle),
      extract_wordOfBytes (fun i => s.genByte (4 * j + i)) hk⟩
  · have hoff : (BitVec.ofNat 16 (0x200 + 4 * j)).toNat = 0x200 + 4 * j := toNat_offset (by omega)
    have hl : locate (BitVec.ofNat 16 (0x200 + 4 * j)).toNat = .exp (4 * j) := by
      rw [hoff, locate_exp (by omega) (by omega), Nat.add_sub_cancel_left]
    exact ⟨_, step_read s rest (by omega) hl (by simp) (.inr rfl),
      (extract_wordOfBytes (fun i => expAt (4 * j + i)) hk).trans (expAt_eq (by omega))⟩
  · have hoff : (BitVec.ofNat 16 (0x400 + 4 * j)).toNat = 0x400 + 4 * j := toNat_offset (by omega)
    have hl : locate (BitVec.ofNat 16 (0x400 + 4 * j)).toNat = .log (4 * j) := by
      rw [hoff, locate_log (by omega) (by omega), Nat.add_sub_cancel_left]
    have hbyte := extract_wordOfBytes (fun i => logAt (BitVec.ofNat 8 (4 * j + i))) hk
    refine ⟨_, step_read s rest (by omega) hl (by simp) (.inr rfl), fun h0 => ?_, fun hpos => ?_⟩
    · exact hbyte.trans (by simp only [h0]; exact logAt_zero)
    · have hlog := alphaPow_logAt_ofNat hpos (by omega)
      rwa [← hbyte] at hlog

/-! ## Reset -/

/-- Settles O46: no byte is written, no bit of the flags set, and every score 0 after a reset (R47, R290). -/
theorem invariantsHoldAtReset : Obligations.InvariantsHoldAtReset :=
  ⟨⟨reset_ram_wf, fun _ he => absurd he List.not_mem_nil⟩, genInv_reset, registerInv_reset,
    penaltyInv_of_zero rfl rfl rfl rfl rfl⟩

end Sys2Proof.Machine
end

section
/-! The RAM windows (spec 20 R61, R67): what each update of a step lists in the RAM lies in them. -/

namespace Sys2Proof.Machine

/-- The RAM windows are DESC, CW to REAL, and TMPL (Table 20-1). -/
theorem isRamOffset_iff (a : Nat) : isRamOffset a = true ↔
    (0x0800 ≤ a ∧ a ≤ 0x0BFF) ∨ (0x1000 ≤ a ∧ a ≤ 0x5FFF) ∨ (0x8000 ≤ a ∧ a ≤ 0xBFFF) := by
  simp only [isRamOffset, Bool.or_eq_true, Bool.and_eq_true, decide_eq_true_eq, or_assoc]

/-- The windows hold whole words: all four bytes of an aligned word lie in the window of its first. -/
theorem isRamOffset_of_word {a x : Nat} (h : isRamOffset a = true) (h4 : a % 4 = 0) (hx : a ≤ x ∧ x < a + 4) :
    isRamOffset x = true := by
  rw [isRamOffset_iff] at *
  omega

/-! ## The updates -/

/-- `RamInv` reads the RAM only. -/
theorem RamInv.congr {s t : State} (h : RamInv s) (hram : t.ram = s.ram) : RamInv t := by
  unfold RamInv
  rwa [hram]

/-- No byte is written after a hardware reset (R290). -/
theorem ramInv_reset : RamInv State.reset := ⟨reset_ram_wf, fun _ he => absurd he List.not_mem_nil⟩

theorem RamInv.setBytes {s : State} (h : RamInv s) {a : Nat} {bs : List Byte}
    (hin : ∀ x, a ≤ x ∧ x < a + bs.length → isRamOffset x = true) : RamInv (s.setBytes a bs) := by
  obtain ⟨hwf, hmem⟩ := h
  refine ⟨s.setBytes_wf a bs hwf, fun e he => ?_⟩
  obtain hnew | hold := State.mem_setBytes he
  · exact hin _ hnew
  · exact hmem e hold

/-- In-grid cells of a grid of at most 177 rows lie in SHADOW or REAL (R41, R42). -/
theorem RamInv.writeCells {s : State} (h : RamInv s) {n base : Nat} {cells : List CellValue}
    (hcells : CellsInGrid n cells) (hbase : base = 0x2000 ∨ base = 0x4000) : RamInv (s.writeCells base cells) := by
  obtain ⟨hwf, hmem⟩ := h
  refine ⟨s.writeCells_wf base cells hwf, fun x hx => ?_⟩
  obtain ⟨e, he, hoff⟩ | hold := State.mem_writeCells hx
  · obtain ⟨hrow, hcol, hside⟩ := hcells e he
    rw [hoff, isRamOffset_iff, bitCellOffset]
    omega
  · exact hmem x hold

/-- Abandoning a command only makes listed bytes unspecified (R291). -/
theorem RamInv.softReset {s : State} (h : RamInv s) : RamInv s.softReset := by
  obtain ⟨hwf, hmem⟩ := h
  refine ⟨s.abandonedRam_wf hwf, fun e he => ?_⟩
  obtain ⟨e', he', hoff⟩ := State.mem_abandonedRam he
  exact hoff ▸ hmem e' he'

/-- A host write stores a word of a RAM window, is a soft reset, or leaves the RAM alone. -/
theorem RamInv.write {s u : State} (hu : WriteEffect s u) (h : RamInv s) : RamInv u := by
  cases hu with
  | softReset => exact h.softReset
  | ram a v hram h4 => exact h.setBytes fun x hx => isRamOffset_of_word hram h4 hx
  | _ => exact h

/-- The parity of a block has GEN_DEG codewords (R160). -/
theorem State.blockParity_length (s : State) (blk : Nat) : (s.blockParity blk).length = s.genDeg.toNat := by
  rw [State.blockParity, rsParity_length, State.genTail_length]

/-- RS_ENC stores its parity within CW, its checks having bounded EOFF + ELEN; the grid commands write in-grid cells;
the other commands leave the RAM alone (R163, R165, R189, R232, R236). -/
theorem RamInv.command {s u : State} {i : Instr} (hu : CommandEffect s i u) (h : RamInv s) : RamInv u := by
  cases hb : gridBase i with
  | some base =>
    obtain ⟨cells, hcells, hram⟩ := hu.ram_eq_writeCells hb
    exact (h.writeCells hcells (gridBase_eq hb)).congr hram
  | none =>
    cases hu with
    | rsEnc blk hr =>
      obtain ⟨-, -, -, -, -, hrange, hlen⟩ := hr
      refine h.setBytes fun x hx => ?_
      rw [State.blockParity_length, cwBase] at hx
      rw [isRamOffset_iff]
      omega
    | place | maskEval | maskSelect => cases hb
    | _ => exact h

/-- Settles O42, by the induction over a step: only a RAM write of the host, RS_ENC, the grid commands and the resets
touch the RAM, each within the windows. -/
theorem stepKeepsRamInv : Obligations.StepKeepsRamInv := fun _ _ hs h =>
  step_keeps (P := RamInv) (fun _ _ h => h) (fun _ _ _ h => h) (fun _ _ h => h) (fun _ _ => RamInv.write)
    (fun _ _ _ => RamInv.command) (fun _ h => h) (fun _ _ => ramInv_reset.congr rfl) hs h

end Sys2Proof.Machine
end

section
/-! The answers of the bus port, region by region, and the words of the RAM windows (spec 20 R62 to R66). -/

namespace Sys2Proof.Machine

/-! ## Errors -/

/-- Settles O50: an access of another form is answered before its offset is decoded. -/
theorem badAccessIsBusError : Obligations.BadAccessIsBusError := by
  intro s off n v rest h
  exact ⟨step_badAccess (s := { s with inputs := .access ⟨off, n, .read⟩ :: rest }) rfl h,
    step_badAccess (s := { s with inputs := .access ⟨off, n, .write v⟩ :: rest }) rfl h⟩

/-- An aligned read is the read of the location it decodes to, whatever is pending behind it (R60). -/
theorem step_readAt (s : State) {off : BitVec 16} {l : Location} (rest : List Input) (h4 : off.toNat % 4 = 0)
    (hl : locate off.toNat = l) :
    step { s with inputs := hostRD off :: rest } = .next ({ s with inputs := rest }.hostRead l) :=
  hl ▸ step_hostRD rfl h4

/-- Settles O51: the five regions hold no register and no window, so their offsets decode to the reserved location. -/
theorem reservedOffsetsAreBusErrors : Obligations.ReservedOffsetsAreBusErrors := by
  intro s off v rest h4 hregion
  have hram : isRamOffset off.toNat = false := by
    rw [Bool.eq_false_iff, ne_eq, isRamOffset_iff]
    omega
  have hl : locate off.toNat = .reserved := locate_reserved (by omega) hram (by omega)
  exact ⟨step_readAt s rest h4 hl, step_write s v rest h4 hl⟩

/-! ## Reads -/

theorem Location.ne_reserved_of_readOnly {l : Location} (h : l.readOnly = true) : l ≠ .reserved := by
  rintro rfl
  cases h

/-- A register stands at every multiple of 4 up to 0x84 (Table 10-1). -/
theorem locate_register_ne_reserved {a : Nat} (h4 : a % 4 = 0) (h : a ≤ 0x0087) : locate a ≠ .reserved := by
  have hall : ∀ q < 34, locate (4 * q) ≠ .reserved := by decide
  obtain ⟨q, rfl⟩ := Nat.dvd_of_mod_eq_zero h4
  exact hall q (by omega)

theorem locate_ram_ne_reserved {a : Nat} (h : isRamOffset a = true) : locate a ≠ .reserved := by
  rw [locate_of_isRam h]
  exact Location.noConfusion

/-- Settles O52: every listed region decodes to a register, a table or the RAM, whose reads only answer. -/
theorem readsHaveNoSideEffect : Obligations.ReadsHaveNoSideEffect := by
  intro s off rest h4 hregion
  have hl : locate off.toNat ≠ .reserved := by
    obtain hreg | htab | hram := hregion
    · exact locate_register_ne_reserved h4 hreg
    · exact Location.ne_reserved_of_readOnly (readOnly_locate_tables htab)
    · exact locate_ram_ne_reserved ((isRamOffset_iff _).mpr hram)
  exact ⟨_, (step_readAt s rest h4 rfl).trans (congrArg _ (hostRead_eq _ _ hl))⟩

/-! ## Words of the RAM -/

/-- A byte that was written reads as the value last written to it (R65). -/
theorem State.byteAt_of_read? {s : State} {a : Nat} {b : Byte} (h : s.ram.read? a = some b) : s.byteAt a = b := by
  rw [State.byteAt, h, Option.getD_some]

/-- Byte k of a stored word stands k bytes behind its offset (R62). -/
theorem State.read?_setWord (s : State) (a : Nat) (v : Word) {k : Nat} (hk : k < 4) :
    (s.setWord a v).ram.read? (a + k) = some (v.extractLsb' (8 * k) 8) := by
  rw [State.setWord, State.read?_setBytes, if_pos ⟨by omega, Nat.add_lt_add_left hk a⟩, Nat.add_sub_cancel_left]
  interval_cases k <;> rfl

theorem State.read?_setWord_of_outside (s : State) {a x : Nat} (v : Word) (h : x < a ∨ a + 4 ≤ x) :
    (s.setWord a v).ram.read? x = s.ram.read? x := by
  rw [State.setWord, State.read?_setBytes, if_neg]
  simp only [List.length_cons, List.length_nil]
  omega

/-- A word whose four bytes are written little-endian reads as that word (R62). -/
theorem State.wordAt_of_read? {s : State} {a : Nat} {v : Word}
    (h : ∀ k, k < 4 → s.ram.read? (a + k) = some (v.extractLsb' (8 * k) 8)) : s.wordAt a = v := by
  have hbyte : ∀ k, k < 4 → s.byteAt (a + k) = v.extractLsb' (8 * k) 8 := fun k hk => State.byteAt_of_read? (h k hk)
  have hfirst : s.byteAt a = v.extractLsb' (8 * 0) 8 := hbyte 0 (by omega)
  rw [State.wordAt, hfirst, hbyte 1 (by omega), hbyte 2 (by omega), hbyte 3 (by omega)]
  exact wordOfBytes_extract v

/-- An aligned write to a RAM window while IDLE answers OKAY, stores the word's four bytes and changes no other state
(R62, R65). -/
theorem step_writeRam (s : State) {off : BitVec 16} (v : Word) (rest : List Input) (h4 : off.toNat % 4 = 0)
    (hram : isRamOffset off.toNat = true) (hidle : s.pendcmd = none) :
    ∃ t, step { s with inputs := hostWR off v :: rest } = .next t ∧
      t = { s with ram := t.ram, inputs := rest }.afterOkay none ∧
      (∀ k, k < 4 → t.ram.read? (off.toNat + k) = some (v.extractLsb' (8 * k) 8)) ∧
      (∀ a, a < off.toNat ∨ off.toNat + 4 ≤ a → t.ram.read? a = s.ram.read? a) := by
  refine ⟨({ s with inputs := rest }.setWord off.toNat v).afterOkay none, ?_, ?_,
    fun _ => State.read?_setWord _ _ v, fun _ => State.read?_setWord_of_outside _ v⟩
  · rw [step_write s v rest h4 (locate_of_isRam hram)]
    exact congrArg _ (writeWhenIdle_idle { s with inputs := rest } v _ hidle)
  · exact congrArg (State.afterOkay · none) (State.setWord_eq _ off.toNat v)

/-- An aligned read of a RAM window while IDLE returns the word whose bytes were written there (R62, R65). -/
theorem step_readRam {s : State} {off : BitVec 16} {v : Word} {rest : List Input}
    (hi : s.inputs = hostRD off :: rest) (h4 : off.toNat % 4 = 0) (hram : isRamOffset off.toNat = true)
    (hidle : s.pendcmd = none) (hv : ∀ k, k < 4 → s.ram.read? (off.toNat + k) = some (v.extractLsb' (8 * k) 8)) :
    step s = .next ({ s with inputs := rest }.afterOkay (some v)) := by
  have hword : { s with inputs := rest }.readValue (.ram off.toNat) = v := State.wordAt_of_read? hv
  rw [step_hostRD hi h4, locate_of_isRam hram, hostRead_eq _ _ Location.noConfusion,
    busRead_idle { s with inputs := rest } _ hidle, hword]

/-- Settles O53: the write stores the word's four bytes, and the read finds them. -/
theorem ramWordReadBack : Obligations.RamWordReadBack := by
  refine ⟨fun _ _ _ => State.byteAt_of_read?, fun s off v rest hidle h4 hregion => ?_⟩
  have hram : isRamOffset off.toNat = true := (isRamOffset_iff _).mpr hregion
  obtain ⟨t, hstep, ht, hbytes, hframe⟩ := step_writeRam s v (hostRD off :: rest) h4 hram hidle
  have hinputs : t.inputs = hostRD off :: rest := congrArg State.inputs ht
  have hpend : t.pendcmd = none := (congrArg State.pendcmd ht).trans hidle
  exact ⟨t, hstep, ht, hbytes, hframe, step_readRam hinputs h4 hram hpend hbytes⟩

end Sys2Proof.Machine
end

section
/-! The rows of the opcode map: what a row fixes of a word and what it leaves to the operands, `decode` said row by row,
and from that the two directions of encoding and decoding (spec 30 R91 to R96). -/

namespace Sys2Proof

/-! ## Fields of a word -/

theorem wordField_or (v w : Word) (hi lo : Nat) : wordField (v ||| w) hi lo = wordField v hi lo ||| wordField w hi lo :=
  BitVec.extractLsb'_or

theorem wordField_eq_iff {v w : Word} {hi lo : Nat} :
    wordField v hi lo = wordField w hi lo ↔ ∀ i, i < hi - lo + 1 → v.getLsbD (lo + i) = w.getLsbD (lo + i) := by
  rw [BitVec.eq_of_getLsbD_eq_iff]
  simp only [getLsbD_wordField]
  grind

/-- The lowest field of a zero-extended value is the value (R92). -/
theorem wordField_setWidth {hi : Nat} (x : BitVec (hi + 1)) (h : hi < 32) : wordField (x.setWidth 32) hi 0 = x := by
  apply BitVec.eq_of_getLsbD_eq
  intro i (hi' : i < hi + 1)
  simp only [getLsbD_wordField, BitVec.getLsbD_setWidth]
  grind

/-! ## Masks of the bits from k on -/

theorem getLsbD_allOnes_shiftLeft {k i : Nat} (h : i < 32) :
    (BitVec.allOnes 32 <<< k).getLsbD i = decide (k ≤ i) := by
  simp only [BitVec.getLsbD_shiftLeft, BitVec.getLsbD_allOnes]
  grind

theorem and_shiftLeft_eq_iff_bits {v w : Word} {k : Nat} :
    v &&& BitVec.allOnes 32 <<< k = w &&& BitVec.allOnes 32 <<< k ↔
      ∀ i, k ≤ i → i < 32 → v.getLsbD i = w.getLsbD i := by
  rw [BitVec.eq_of_getLsbD_eq_iff]
  simp only [BitVec.getLsbD_and]
  grind [getLsbD_allOnes_shiftLeft]

/-- Two words agree from bit k on exactly when their fields there agree: the opcode, and the bits from k to 23. -/
theorem and_shiftLeft_eq_iff_fields {v w : Word} {k : Nat} (hk : k ≤ 23) :
    v &&& BitVec.allOnes 32 <<< k = w &&& BitVec.allOnes 32 <<< k ↔
      wordField v 31 24 = wordField w 31 24 ∧ wordField v 23 k = wordField w 23 k := by
  rw [and_shiftLeft_eq_iff_bits, wordField_eq_iff, wordField_eq_iff]
  constructor
  · exact fun h => ⟨fun i hi => h _ (by omega) (by omega), fun i hi => h _ (by omega) (by omega)⟩
  · rintro ⟨hopc, hzero⟩ i hik hi
    rcases Nat.lt_or_ge i 24 with h24 | h24
    · exact Nat.add_sub_of_le hik ▸ hzero (i - k) (by omega)
    · exact Nat.add_sub_of_le h24 ▸ hopc (i - 24) (by omega)

/-- The lowest field of a word, zero-extended, is the word cleared above the field. -/
theorem setWidth_wordField (w : Word) (hi : Nat) :
    (wordField w hi 0).setWidth 32 = w &&& ~~~(BitVec.allOnes 32 <<< (hi + 1)) := by
  apply BitVec.eq_of_getLsbD_eq
  intro i h
  simp only [BitVec.getLsbD_setWidth, getLsbD_wordField, BitVec.getLsbD_and, BitVec.getLsbD_not,
    getLsbD_allOnes_shiftLeft h]
  grind

/-! ## What a row fixes -/

/-- The opcode of a command's row (R93). -/
def Instr.opcode : Instr → Nat
  | .nop => 0x00
  | .gfMul _ _ => 0x01
  | .gfExp _ => 0x02
  | .gfLog _ => 0x03
  | .rsGen _ => 0x10
  | .rsEnc _ => 0x11
  | .place => 0x20
  | .maskEval _ => 0x30
  | .maskSelect => 0x31
  | .score => 0x32

/-- How many of a row's low bits hold operands; the bits from there to bit 23 must be 0 (R91). -/
def Instr.operandWidth : Instr → Nat
  | .gfMul _ _ => 16
  | .gfExp _ => 9
  | .gfLog _ | .rsGen _ | .rsEnc _ => 8
  | .maskEval _ => 3
  | .nop | .place | .maskSelect | .score => 0

theorem Instr.operandWidth_le (i : Instr) : i.operandWidth ≤ 23 := by
  cases i <;> (dsimp only [Instr.operandWidth]; decide)

/-- A row's mask covers the bits above its operands. -/
theorem opcodeMask_eq (i : Instr) : opcodeMask i = BitVec.allOnes 32 <<< i.operandWidth := by
  cases i <;> (dsimp only [opcodeMask, Instr.operandWidth]; decide)

theorem wordField_opcodeMatch_opcode (i : Instr) : (wordField (opcodeMatch i) 31 24).toNat = i.opcode := by
  cases i <;> (dsimp only [opcodeMatch, Instr.opcode]; decide)

/-- Below the opcode, a row's match column is 0 (R93). -/
theorem wordField_opcodeMatch_below (i : Instr) {hi lo : Nat} (h : hi < 24) (hlo : lo ≤ hi) :
    wordField (opcodeMatch i) hi lo = 0 := by
  have harea : wordField (opcodeMatch i) 23 0 = wordField 0 23 0 := by cases i <;> dsimp only [opcodeMatch] <;> rfl
  have hfield : wordField (opcodeMatch i) hi lo = wordField 0 hi lo :=
    wordField_eq_iff.mpr fun j hj => Nat.zero_add (lo + j) ▸ wordField_eq_iff.mp harea (lo + j) (by omega)
  exact hfield.trans BitVec.extractLsb'_zero

/-- A word matches a row exactly when it has the row's opcode and 0 in the must-be-zero bits (R91, R93). -/
theorem matches_iff_fields {w : Word} {i : Instr} :
    w &&& opcodeMask i = opcodeMatch i ↔ (wordField w 31 24).toNat = i.opcode ∧ wordField w 23 i.operandWidth = 0 := by
  rw [← wordField_opcodeMatch_opcode, ← BitVec.toNat_eq,
    ← wordField_opcodeMatch_below i (by decide) i.operandWidth_le, ← and_shiftLeft_eq_iff_fields i.operandWidth_le,
    ← opcodeMask_eq, Laws.OpcodeRow.match_and_mask]

/-! ## What a row leaves to the operands -/

/-- The command of the same row whose operands stand in `w` (R91, R92). -/
def Instr.withOperands (w : Word) : Instr → Instr
  | .nop => .nop
  | .gfMul _ _ => .gfMul (wordField w 15 8) (wordField w 7 0)
  | .gfExp _ => .gfExp (wordField w 8 0)
  | .gfLog _ => .gfLog (wordField w 7 0)
  | .rsGen _ => .rsGen (wordField w 7 0)
  | .rsEnc _ => .rsEnc (wordField w 7 0)
  | .place => .place
  | .maskEval _ => .maskEval (wordField w 2 0)
  | .maskSelect => .maskSelect
  | .score => .score

@[simp] theorem opcodeMatch_withOperands (w : Word) (i : Instr) : opcodeMatch (i.withOperands w) = opcodeMatch i := by
  cases i <;> rfl

@[simp] theorem opcodeMask_withOperands (w : Word) (i : Instr) : opcodeMask (i.withOperands w) = opcodeMask i := by
  cases i <;> rfl

@[simp] theorem withOperands_withOperands (v w : Word) (i : Instr) :
    (i.withOperands v).withOperands w = i.withOperands w := by
  cases i <;> rfl

/-- The operand bits of the command read from a word are the word's bits outside the row's mask (R91). -/
theorem operandBits_withOperands (w : Word) (i : Instr) : operandBits (i.withOperands w) = w &&& ~~~opcodeMask i := by
  rw [opcodeMask_eq]
  cases i with
  | nop | place | maskSelect | score => exact BitVec.and_zero.symm
  | gfExp | gfLog | rsGen | rsEnc | maskEval => exact setWidth_wordField w _
  | gfMul a b =>
    apply BitVec.eq_of_getLsbD_eq
    intro j hj
    simp only [operandBits, Instr.withOperands, BitVec.getLsbD_or, BitVec.getLsbD_shiftLeft, BitVec.getLsbD_setWidth,
      BitVec.getLsbD_and, BitVec.getLsbD_not, getLsbD_wordField, getLsbD_allOnes_shiftLeft hj, Instr.operandWidth]
    rcases Nat.lt_or_ge j 8 with h8 | h8 <;> grind

/-! ## The decoder, row by row -/

/-- Of a word with the opcode of a row, `decode` reads the operands when the must-be-zero bits are 0 (R94). -/
theorem decode_of_opcode {w : Word} {i : Instr} (h : (wordField w 31 24).toNat = i.opcode) :
    decode w = requireZero (wordField w 23 i.operandWidth == 0) (i.withOperands w) := by
  rw [decode, h]
  cases i <;> rfl

/-- A word that decodes to a command has the opcode of the command's row, 0 in the must-be-zero bits, and the command's
operands (R94). -/
theorem fields_of_decode {w : Word} {i : Instr} (h : decode w = .ok i) :
    (wordField w 31 24).toNat = i.opcode ∧ wordField w 23 i.operandWidth = 0 ∧ i.withOperands w = i := by
  unfold decode at h
  split at h
  case h_11 => cases h
  all_goals
    rename_i hopc
    rw [requireZero_eq_ok, beq_iff_eq] at h
    obtain ⟨hzero, rfl⟩ := h
    exact ⟨hopc, hzero, rfl⟩

/-- A word decodes to a command exactly when it matches the command's row and holds its operands (R93, R94). -/
theorem decode_eq_ok_iff {w : Word} {i : Instr} :
    decode w = .ok i ↔ w &&& opcodeMask i = opcodeMatch i ∧ i.withOperands w = i := by
  rw [matches_iff_fields]
  constructor
  · intro h
    obtain ⟨hopc, hzero, hi⟩ := fields_of_decode h
    exact ⟨⟨hopc, hzero⟩, hi⟩
  · rintro ⟨⟨hopc, hzero⟩, hi⟩
    rw [decode_of_opcode hopc, requireZero_eq_ok]
    exact ⟨beq_iff_eq.mpr hzero, hi⟩

/-! ## The encoder, row by row -/

/-- An assembled word matches its command's row (R93, R96). -/
theorem encode_matches : ∀ i : Instr, encode i &&& opcodeMask i = opcodeMatch i
  | .nop => Laws.OpcodeRow.nop.1
  | .gfMul a b => (Laws.OpcodeRow.gfMul a b).1
  | .gfExp k => (Laws.OpcodeRow.gfExp k).1
  | .gfLog a => (Laws.OpcodeRow.gfLog a).1
  | .rsGen n => (Laws.OpcodeRow.rsGen n).1
  | .rsEnc blk => (Laws.OpcodeRow.rsEnc blk).1
  | .place => Laws.OpcodeRow.place.1
  | .maskEval m => (Laws.OpcodeRow.maskEval m).1
  | .maskSelect => Laws.OpcodeRow.maskSelect.1
  | .score => Laws.OpcodeRow.score.1

/-- Below the opcode, the assembled word holds the operand bits alone (R96). -/
theorem wordField_encode (i : Instr) {hi lo : Nat} (h : hi < 24) (hlo : lo ≤ hi) :
    wordField (encode i) hi lo = wordField (operandBits i) hi lo := by
  rw [encode, wordField_or, wordField_opcodeMatch_below i h hlo]
  exact BitVec.zero_or

/-- The two operands of GF_MUL stand in bits 15..8 and 7..0 (R91). -/
theorem wordField_operandBits_gfMul (a b : Byte) :
    wordField (operandBits (.gfMul a b)) 15 8 = a ∧ wordField (operandBits (.gfMul a b)) 7 0 = b := by
  constructor <;>
  · apply BitVec.eq_of_getLsbD_eq
    intro j (hj : j < 8)
    simp only [operandBits, getLsbD_wordField, BitVec.getLsbD_or, BitVec.getLsbD_shiftLeft, BitVec.getLsbD_setWidth]
    grind

/-- The operands read from an assembled word are the command's (R91, R96). -/
theorem withOperands_encode (i : Instr) : i.withOperands (encode i) = i := by
  cases i with
  | nop | place | maskSelect | score => rfl
  | gfExp x | gfLog x | rsGen x | rsEnc x | maskEval x =>
    simp [Instr.withOperands, wordField_encode, operandBits, wordField_setWidth x]
  | gfMul a b =>
    obtain ⟨ha, hb⟩ := wordField_operandBits_gfMul a b
    simp [Instr.withOperands, wordField_encode, ha, hb]

/-- A word that matches a row is the assembled word of that row with the operands the word holds (R91, R93, R96). -/
theorem encode_withOperands {w : Word} {i : Instr} (h : w &&& opcodeMask i = opcodeMatch i) :
    encode (i.withOperands w) = w := by
  rw [encode, operandBits_withOperands, opcodeMatch_withOperands, ← h, ← BitVec.and_or_distrib_left,
    BitVec.or_not_self, BitVec.and_allOnes]

/-! ## Decode and encode -/

/-- Settles O1: the assembled word matches its command's row, and the operands read from it are the command's. -/
theorem decodeInvertsEncode : Obligations.DecodeInvertsEncode := fun i =>
  decode_eq_ok_iff.mpr ⟨encode_matches i, withOperands_encode i⟩

/-- Settles O2: the row's mask and the operands between them cover every bit of the word. -/
theorem encodeInvertsDecode : Obligations.EncodeInvertsDecode := by
  intro w i h
  obtain ⟨hrow, hi⟩ := decode_eq_ok_iff.mp h
  rw [← hi]
  exact encode_withOperands hrow

/-- Settles O3: a word that matches a row decodes to the command of that row with the operands the word holds. -/
theorem decodeMatchesOpcodeRow : Obligations.DecodeMatchesOpcodeRow := by
  intro w i
  refine ⟨fun h => (decode_eq_ok_iff.mp h).1, fun h => ⟨i.withOperands w, ?_, by simp, by simp⟩⟩
  rw [decode_eq_ok_iff]
  simpa using h

/-- Settles O4: the words are evaluated. -/
theorem specWordsDecode : Obligations.SpecWordsDecode := by
  unfold Obligations.SpecWordsDecode
  decide

end Sys2Proof
end

section
/-! The assembler never truncates (spec 30 R96), and the engine's turn on an illegal word (30 R95, 40 R112). -/

namespace Sys2Proof.Machine

/-! ## The assembler -/

/-- Operands that fit their fields are placed in them unchanged (R92, R96). -/
theorem asm_asmInstr {c : AsmCommand} (h : c.fits = true) : (asmInstr c).asm = c := by
  cases c with
  | nop | place | maskSelect | score => rfl
  | gfMul a b =>
    simp only [AsmCommand.fits, Bool.and_eq_true, decide_eq_true_eq] at h
    simp [asmInstr, Instr.asm, Nat.mod_eq_of_lt (show a < 256 by omega), Nat.mod_eq_of_lt (show b < 256 by omega)]
  | gfExp n | gfLog n | rsGen n | rsEnc n | maskEval n =>
    simp only [AsmCommand.fits, decide_eq_true_eq] at h
    simpa [asmInstr, Instr.asm] using Nat.lt_succ_of_le h

/-- Settles O60: the assembler's check is the one that keeps the operands, and decoding gives back what was encoded. -/
theorem assemblerRefusesMisfits : Obligations.AssemblerRefusesMisfits := fun c =>
  ⟨fun h => ⟨encode (asmInstr c), asmInstr c, if_pos h, decodeInvertsEncode (asmInstr c), asm_asmInstr h⟩,
    fun h => if_neg (by simp [h])⟩

/-! ## The engine's turn -/

/-- With no input pending, the step is the engine's move (R116). -/
theorem step_of_noInput {s : State} (h : s.inputs = []) : step s = engineStep s := by
  rw [step, agentStep, h]

/-- The engine's turn first among the inputs is taken off, and the engine moves (R112). -/
theorem step_of_engineTurn {s : State} {rest : List Input} (h : s.inputs = .engine :: rest) :
    step s = engineStep { s with inputs := rest } := by
  rw [step, agentStep, h]

/-- The engine's move ends an illegal word with E_ILLEGAL_CMD (R95, R112). -/
theorem engineStep_of_illegal {s : State} {w : Word} {why : IllegalWord} (hw : s.pendcmd = some w)
    (h : decode w = .error why) : engineStep s = .next (s.afterError 0x01) := by
  simp only [engineStep, hw, h]
  exact congrArg _ (completeErr_eq s .illegalCmd)

/-- Settles O8: both ways the engine comes to move end in its move on an illegal word. -/
theorem illegalWordCompletesWithError : Obligations.IllegalWordCompletesWithError := fun _ _ _ _ h =>
  ⟨(step_of_noInput rfl).trans (engineStep_of_illegal rfl h),
    (step_of_engineTurn rfl).trans (engineStep_of_illegal rfl h)⟩

end Sys2Proof.Machine
end

section
/-! The command life cycle (spec 40 R110 to R117, R120): the engine's turn on a legal word, acceptance and refusal, the
completion that ends a run, the progress of every step, and the errors that leave the state alone. -/

namespace Sys2Proof.Machine

/-! ## The engine's turn on a legal word -/

/-- The engine's move on a legal word is `exec` of its command (R112). -/
theorem engineStep_of_legal {s : State} {w : Word} {i : Instr} (hw : s.pendcmd = some w) (h : decode w = .ok i) :
    engineStep s = exec i s := by
  simp only [engineStep, hw, h]

/-- An IDLE engine takes no step (R275). -/
theorem engineStep_of_idle {s : State} (h : s.pendcmd = none) : engineStep s = .next s := by
  simp only [engineStep, h]

/-- Settles O5: both ways the engine comes to move end in its move on a legal word. -/
theorem stepRunsPendingCommand : Obligations.StepRunsPendingCommand := fun _ _ _ _ =>
  ⟨fun h => ⟨(step_of_noInput rfl).trans (engineStep_of_legal rfl h),
      (step_of_engineTurn rfl).trans (engineStep_of_legal rfl h)⟩,
    (step_of_noInput rfl).trans (engineStep_of_idle rfl)⟩

/-! ## A command of the opcode table as the accepted word -/

/-- A byte of a number's word is that byte of the number (R62). -/
theorem extract_ofNat (n : Nat) {k : Nat} (hk : k ≤ 24) :
    (BitVec.ofNat 32 n).extractLsb' k 8 = BitVec.ofNat 8 (n >>> k) := by
  apply BitVec.eq_of_getLsbD_eq
  intro j hj
  have hkj : k + j < 32 := by omega
  simp only [BitVec.getLsbD_extractLsb', BitVec.getLsbD_ofNat, Nat.testBit_shiftRight, hj, hkj, decide_true,
    Bool.true_and]

/-- The word of a number's four lowest bytes is the number's word (R62). -/
theorem wordOfBytes_ofNat (n : Nat) :
    wordOfBytes (BitVec.ofNat 8 n) (BitVec.ofNat 8 (n >>> 8)) (BitVec.ofNat 8 (n >>> 16)) (BitVec.ofNat 8 (n >>> 24)) =
      BitVec.ofNat 32 n := by
  have h := wordOfBytes_extract (BitVec.ofNat 32 n)
  rwa [extract_ofNat n (by decide), extract_ofNat n (by decide), extract_ofNat n (by decide),
    extract_ofNat n (by decide), Nat.shiftRight_zero] at h

/-- What the host reads from a row of the opcode table is what `decode` reads from the word of its bits (R90, R94). -/
theorem decode_of_decodeTableWord {nbits w : Nat} {i : Instr} (h : decodeTableWord nbits w = some i) :
    decode (BitVec.ofNat 32 (w % 2 ^ nbits)) = .ok i := by
  rw [← wordOfBytes_ofNat]
  dsimp only [decodeTableWord] at h
  split at h
  · rename_i hd
    rwa [Option.some.inj h] at hd
  · cases h

/-- Settles O6: `withFetchWord` accepts the word of the bits, and puts the engine's turn first. -/
theorem fetchWordRunsTableCommand : Obligations.FetchWordRunsTableCommand := fun _ _ _ _ h =>
  (step_of_engineTurn rfl).trans (engineStep_of_legal rfl (decode_of_decodeTableWord h))

/-! ## Acceptance and refusal -/

/-- While IDLE a write of CMD is accepted (R111). -/
theorem writeCmd_idle {s : State} (v : Word) (h : s.pendcmd = none) : s.writeCmd v = (s.accept v).afterOkay none := by
  simp [State.writeCmd, State.busy, h, respond_okay_eq]

/-- While RUNNING a write of CMD is refused with E_BUSY (R114). -/
theorem writeCmd_busy {s : State} (v : Word) {w : Word} (h : s.pendcmd = some w) :
    s.writeCmd v = s.afterBusError 0x02 none := by
  simp [State.writeCmd, State.busy, h, busFail_write_eq, ErrCode.code]

/-- A host write at 0x10 is the write of CMD (R26). -/
theorem step_writeCmd (s : State) (v : Word) (rest : List Input) :
    step { s with inputs := hostWR 0x010 v :: rest } = .next ({ s with inputs := rest }.writeCmd v) :=
  step_write s (l := .cmd) v rest rfl rfl

/-- Settles O7: PENDCMD decides between acceptance and refusal. -/
theorem cmdWriteAcceptedOrRefused : Obligations.CmdWriteAcceptedOrRefused := by
  refine fun s w v rest => ⟨?_, ?_⟩
  · rw [step_writeCmd { s with pendcmd := none } v rest]
    exact congrArg _ (writeCmd_idle v rfl)
  · rw [step_writeCmd { s with pendcmd := some w } v rest]
    exact congrArg _ (writeCmd_busy v rfl)

/-! ## Completion -/

/-- No command faults or is refused (R260). -/
theorem exists_exec_eq_next (i : Instr) (s : State) : ∃ t, exec i s = .next t := by
  cases i <;> exact ⟨_, rfl⟩

/-- A command ends with BUSY = 0 and DONE = 1, and leaves CTRL.IE and the inputs alone (R112). -/
theorem exec_completes {i : Instr} {s t : State} (h : exec i s = .next t) :
    t.pendcmd = none ∧ t.done = true ∧ t.ie = s.ie ∧ t.inputs = s.inputs := by
  obtain ⟨u, hu, ht⟩ := exec_effect h
  obtain ⟨-, -, -, hie, -, hinputs, -⟩ := hu.keeps_configuration
  obtain rfl | ⟨e, rfl⟩ := ht
  · exact ⟨rfl, rfl, hie, hinputs⟩
  · exact ⟨rfl, rfl, hie, hinputs⟩

/-- The engine's move completes the pending word, legal or illegal (R95, R112). -/
theorem engineStep_completes {s : State} {w : Word} (hw : s.pendcmd = some w) :
    ∃ t, engineStep s = .next t ∧ t.pendcmd = none ∧ t.done = true ∧ t.ie = s.ie ∧ t.inputs = s.inputs := by
  cases hd : decode w with
  | error why => exact ⟨_, engineStep_of_illegal hw hd, rfl, rfl, rfl, rfl⟩
  | ok i =>
    obtain ⟨t, ht⟩ := exists_exec_eq_next i s
    exact ⟨t, (engineStep_of_legal hw hd).trans ht, exec_completes ht⟩

/-- With DONE = 1 the interrupt output is CTRL.IE (R266). -/
theorem irq_of_done {s : State} (h : s.done = true) : s.irq = s.ie := by
  simp [State.irq, h]

/-- Settles O9: the engine's turn is its move on the pending word. -/
theorem completionEndsRun : Obligations.CompletionEndsRun := by
  intro s w rest
  obtain ⟨t, ht, hpend, hdone, hie, hinputs⟩ :=
    engineStep_completes (s := { s with pendcmd := some w, inputs := rest }) rfl
  exact ⟨t, (step_of_engineTurn rfl).trans ht, by rw [State.busy, hpend]; rfl, hdone, hie,
    (irq_of_done hdone).trans hie, hinputs⟩

/-! ## Progress -/

/-- Whatever the engine finds, its move ends IDLE with the inputs as they were (R112, R275). -/
theorem engineStep_ends_idle (s : State) : ∃ t, engineStep s = .next t ∧ t.pendcmd = none ∧ t.inputs = s.inputs := by
  cases hp : s.pendcmd with
  | none => exact ⟨s, engineStep_of_idle hp, hp, rfl⟩
  | some w =>
    obtain ⟨t, ht, hpend, -, -, hinputs⟩ := engineStep_completes hp
    exact ⟨t, ht, hpend, hinputs⟩

/-- No write of the host touches the inputs still to come (log 7). -/
theorem WriteEffect.keeps_inputs {s u : State} (h : WriteEffect s u) : u.inputs = s.inputs := by
  cases h with
  | ram a v => rw [State.setWord_eq]
  | _ => rfl

/-- A bus transaction does not touch the inputs still to come (R60). -/
theorem hostAccess_inputs (s : State) (a : Access) : (s.hostAccess a).inputs = s.inputs := by
  obtain ⟨e, d, -, h⟩ | ⟨d, h⟩ | ⟨u, hu, h⟩ := hostAccess_cases s a
  · rw [h]; rfl
  · rw [h]; rfl
  · rw [h]; exact hu.keeps_inputs

/-- A step takes the first pending input off, without a fault or refusal (R69, R260). -/
theorem step_takes_input {s : State} {x : Input} {rest : List Input} (h : s.inputs = x :: rest) :
    ∃ t, step s = .next t ∧ t.inputs = rest := by
  cases x with
  | access a => exact ⟨_, by rw [step, agentStep, h], hostAccess_inputs { s with inputs := rest } a⟩
  | hardReset => exact ⟨_, by rw [step, agentStep, h], rfl⟩
  | engine =>
    obtain ⟨t, ht, -, hinputs⟩ := engineStep_ends_idle { s with inputs := rest }
    exact ⟨t, (step_of_engineTurn h).trans ht, hinputs⟩

/-- A run goes on from the state its first step gives. -/
theorem run_succ {M : Host.Core} {s t : M.State} (k : Nat) (h : M.step s = .next t) : M.run (k + 1) s = M.run k t := by
  rw [Host.Core.run, h]

/-- Settles O10, by induction on the pending inputs: each step takes one off, and the engine's move then ends IDLE. -/
theorem quiescenceReached : Obligations.QuiescenceReached := by
  intro s
  induction hi : s.inputs generalizing s with
  | nil =>
    obtain ⟨t, ht, hpend, hinputs⟩ := engineStep_ends_idle s
    exact ⟨t, run_succ 0 ((step_of_noInput hi).trans ht), hinputs.trans hi, by rw [State.busy, hpend]; rfl⟩
  | cons x rest ih =>
    obtain ⟨u, hu, hrest⟩ := step_takes_input hi
    obtain ⟨t, hrun, ht⟩ := ih u hrest
    exact ⟨t, (run_succ _ hu).trans hrun, ht⟩

/-! ## NOP -/

/-- A word with opcode 0x00 and a nonzero bit below it is illegal (R95, R120). -/
theorem decode_of_nop_reserved {w : BitVec 24} (h : w ≠ 0) :
    decode ((0x00 : BitVec 8) ++ w) = .error .reservedBitSet := by
  have hopc : wordField ((0x00 : BitVec 8) ++ w) 31 24 = 0x00 := BitVec.extractLsb'_append_eq_left
  have hbelow : wordField ((0x00 : BitVec 8) ++ w) 23 0 = w := BitVec.extractLsb'_append_eq_right
  have hzero : (wordField ((0x00 : BitVec 8) ++ w) 23 Instr.nop.operandWidth == 0) = false :=
    beq_eq_false_iff_ne.mpr (hbelow.trans_ne h)
  rw [decode_of_opcode (i := .nop) (congrArg BitVec.toNat hopc), hzero]
  rfl

/-- Settles O11: the word 0 is NOP's assembled word; the run is its acceptance, then its completion. -/
theorem nopWritesOnlyCompletion : Obligations.NopWritesOnlyCompletion := by
  have hnop : decode 0x00000000 = .ok .nop := decodeInvertsEncode .nop
  refine ⟨⟨hnop, fun w => decode_of_nop_reserved⟩, fun s rest => ⟨rfl, ?_⟩⟩
  obtain ⟨haccept, -⟩ := cmdWriteAcceptedOrRefused s 0 0x00000000 (.engine :: rest)
  exact (run_succ 1 haccept).trans (run_succ 0 ((step_of_engineTurn rfl).trans (engineStep_of_legal rfl hnop)))

/-! ## Command errors -/

/-- A command keeps ERR, or ends with the error of a check and nothing else, or raises E_PLACE_OVF (R115, R191). -/
theorem exec_error_cases {i : Instr} {s t : State} (h : exec i s = .next t) :
    t.err = s.err ∨ (∃ e, t = s.completeErr e) ∨ t.errcode = 0x0C := by
  cases i with
  | nop | gfMul | rsGen => injection h with h; exact .inl (h ▸ rfl)
  | gfExp | gfLog =>
    injection h with h
    split at h
    · exact .inr (.inl ⟨_, h.symm⟩)
    · exact .inl (h ▸ rfl)
  | score =>
    injection h with h
    split at h
    · exact .inl (h ▸ rfl)
    · exact .inr (.inl ⟨_, h.symm⟩)
  | rsEnc =>
    obtain ⟨e, -, ht⟩ | ⟨-, rfl⟩ := execRsEnc_cases h
    · exact .inr (.inl ⟨e, ht⟩)
    · exact .inl (State.setBytes_err ..)
  | place =>
    obtain ⟨e, -, ht⟩ | ⟨-, -, rfl⟩ | ⟨-, -, rfl⟩ := execPlace_cases h
    · exact .inr (.inl ⟨e, ht⟩)
    · exact .inr (.inr rfl)
    · exact .inl (State.writeCells_err ..)
  | maskEval =>
    obtain ⟨e, -, ht⟩ | ⟨-, rfl⟩ := execMaskEval_cases h
    · exact .inr (.inl ⟨e, ht⟩)
    · exact .inl (State.writeCells_err ..)
  | maskSelect =>
    obtain ⟨e, -, ht⟩ | ⟨-, rfl⟩ := execMaskSelect_cases h
    · exact .inr (.inl ⟨e, ht⟩)
    · exact .inl (State.writeCells_err ..)

/-- Settles O12: with ERR = 0 before and another code than 0x0C after, only the error of a check is left. -/
theorem commandErrorsLeaveState : Obligations.CommandErrorsLeaveState := by
  intro i s t hs h ht hcode
  obtain herr | ⟨e, rfl⟩ | hovf := exec_error_cases h
  · rw [herr, hs] at ht; cases ht
  · exact completeErr_eq s e
  · exact absurd hovf hcode

end Sys2Proof.Machine
end

section
/-! The field product without tables is multiplication in GF(256), and the ROM product is that product (spec 41 R131,
R132). -/

namespace Sys2Proof.Machine

/-! ## The carry-less product -/

/-- A byte taken on the XOR of two conditions is the XOR of the byte taken on each. -/
theorem ite_xor (p q : Bool) (v : Byte) :
    (if (p ^^ q) then v else 0x00) = (if p then v else 0x00) ^^^ (if q then v else 0x00) := by
  cases p <;> cases q <;> simp

/-- Multiplication by x modulo 0x11D distributes over XOR. -/
theorem xtime_xor (v w : Byte) : xtime (v ^^^ w) = xtime v ^^^ xtime w := by
  simp only [xtime, BitVec.shiftLeft_xor_distrib, BitVec.getLsbD_xor, ite_xor]
  ac_rfl

/-- One step of the carry-less product: the sum so far times x, and the left operand if the bit is set (R132). -/
def productStep (a b acc : Byte) (k : Nat) : Byte := xtime acc ^^^ (if b.getLsbD k then a else 0x00)

/-- The carry-less product is the fold of its steps over the bits of the right operand, from the top (R132). -/
theorem fieldProduct_eq_foldl (a b : Byte) :
    fieldProduct a b = [7, 6, 5, 4, 3, 2, 1, 0].foldl (productStep a b) 0x00 := rfl

/-- A step commutes with a factor x of the sum and of the left operand. -/
theorem productStep_xtime (a b acc : Byte) (k : Nat) :
    productStep (xtime a) b (xtime acc) k = xtime (productStep a b acc k) := by
  rw [productStep, productStep, xtime_xor, apply_ite xtime]
  rfl

/-- A factor x of the left operand comes out of the product. -/
theorem fieldProduct_xtime (a b : Byte) : fieldProduct (xtime a) b = xtime (fieldProduct a b) := by
  rw [fieldProduct_eq_foldl, fieldProduct_eq_foldl]
  exact List.foldl_hom xtime (init := 0x00) (productStep_xtime a b)

/-- A step is additive in the sum and the right operand together. -/
theorem productStep_xor (a b c x y : Byte) (k : Nat) :
    productStep a (b ^^^ c) (x ^^^ y) k = productStep a b x k ^^^ productStep a c y k := by
  simp only [productStep, xtime_xor, BitVec.getLsbD_xor, ite_xor]
  ac_rfl

theorem foldl_productStep_xor (a b c : Byte) (ks : List Nat) (x y : Byte) :
    ks.foldl (productStep a (b ^^^ c)) (x ^^^ y) = ks.foldl (productStep a b) x ^^^ ks.foldl (productStep a c) y := by
  induction ks generalizing x y with
  | nil => rfl
  | cons k ks ih => rw [List.foldl_cons, productStep_xor, ih]; rfl

/-- The product distributes over XOR in the right operand. -/
theorem fieldProduct_xor (a b c : Byte) : fieldProduct a (b ^^^ c) = fieldProduct a b ^^^ fieldProduct a c := by
  simp only [fieldProduct_eq_foldl]
  exact foldl_productStep_xor a b c _ 0x00 0x00

theorem fieldProduct_zero_left (b : Byte) : fieldProduct 0x00 b = 0x00 := by
  simp [fieldProduct, xtime]

theorem fieldProduct_zero_right (a : Byte) : fieldProduct a 0x00 = 0x00 := by
  simp [fieldProduct, xtime]

/-- With left operand 1 no step reaches x^8, so the product is the right operand; the 256 cases are evaluated. -/
theorem fieldProduct_one_left (b : Byte) : fieldProduct 0x01 b = b := by
  revert b
  decide +kernel

/-- A power of α as left operand multiplies by x as often as its exponent says. -/
theorem fieldProduct_alphaPow (i j : Nat) : fieldProduct (alphaPow i) (alphaPow j) = alphaPow (i + j) := by
  induction i with
  | zero => rw [Nat.zero_add]; exact fieldProduct_one_left _
  | succ i ih => rw [Nat.succ_add, alphaPow, fieldProduct_xtime, ih]; rfl

/-! ## The ROM product -/

/-- Every byte is 0 or a power of α (R130). -/
theorem eq_zero_or_alphaPow (a : Byte) : a = 0 ∨ ∃ i, a = alphaPow i := by
  by_cases h : a = 0
  · exact .inl h
  · exact .inr ⟨_, (alphaPow_logAt h).1.symm⟩

/-- The ROM product is the carry-less product reduced modulo 0x11D (R132). -/
theorem gfMul_eq_fieldProduct (a b : Byte) : gfMul a b = fieldProduct a b := by
  obtain rfl | ⟨i, rfl⟩ := eq_zero_or_alphaPow a
  · rw [gfMul_zero_left]; exact (fieldProduct_zero_left b).symm
  obtain rfl | ⟨j, rfl⟩ := eq_zero_or_alphaPow b
  · rw [gfMul_zero_right]; exact (fieldProduct_zero_right _).symm
  rw [gfMul_alphaPow, fieldProduct_alphaPow]

theorem gfMul_comm (a b : Byte) : gfMul a b = gfMul b a := by
  simp only [gfMul, or_comm, Nat.add_comm]

/-- The product of three powers of α adds their exponents, and 0 in any place makes both sides 0. -/
theorem gfMul_assoc (a b c : Byte) : gfMul (gfMul a b) c = gfMul a (gfMul b c) := by
  obtain rfl | ⟨i, rfl⟩ := eq_zero_or_alphaPow a
  · simp only [gfMul_zero_left]
  obtain rfl | ⟨j, rfl⟩ := eq_zero_or_alphaPow b
  · simp only [gfMul_zero_left, gfMul_zero_right]
  obtain rfl | ⟨k, rfl⟩ := eq_zero_or_alphaPow c
  · simp only [gfMul_zero_right]
  simp only [gfMul_alphaPow, Nat.add_assoc]

theorem gfMul_xor (a b c : Byte) : gfMul a (b ^^^ c) = gfMul a b ^^^ gfMul a c := by
  simp only [gfMul_eq_fieldProduct, fieldProduct_xor]

theorem gfMul_one_left (a : Byte) : gfMul 0x01 a = a :=
  (gfMul_eq_fieldProduct _ _).trans (fieldProduct_one_left a)

/-- The exponents of a and of its inverse add up to 255, and α^255 = 1 (R132). -/
theorem gfMul_inverse {a : Byte} (h : a ≠ 0) : gfMul a (expAt (255 - (logAt a).toNat)) = 0x01 := by
  obtain ⟨hpow, hle⟩ := alphaPow_logAt h
  calc gfMul a (expAt (255 - (logAt a).toNat))
    _ = gfMul (alphaPow (logAt a).toNat) (alphaPow (255 - (logAt a).toNat)) := by
      rw [hpow, expAt_eq_alphaPow (by omega)]
    _ = alphaPow 255 := by rw [gfMul_alphaPow, Nat.add_sub_of_le (by omega)]
    _ = 0x01 := alphaPow_255

/-- Settles O14: the laws hold of powers of α, where the product adds exponents, and of the carry-less product, which is
linear. -/
theorem fieldProductLaws : Obligations.FieldProductLaws := fun a b c =>
  ⟨gfMul_comm a b, gfMul_assoc a b c, gfMul_xor a b c, gfMul_one_left a, gfMul_zero_left a, gfMul_inverse,
    BitVec.xor_self, gfMul_eq_fieldProduct a b⟩

/-! ## The field commands -/

/-- Opcode 0x01, a zero byte and the two operands make GF_MUL's assembled word (R91, R96). -/
theorem append_eq_encode_gfMul (a b : Byte) :
    (0x01 : BitVec 8) ++ (0x00 : BitVec 8) ++ a ++ b = encode (.gfMul a b) := by
  have happend : (0x01 : BitVec 8) ++ (0x00 : BitVec 8) ++ a ++ b =
      (0x01000000 : Word) ||| a.setWidth 32 <<< 8 ||| b.setWidth 32 :=
    (BitVec.setWidth_eq _).symm.trans BitVec.setWidth_append_append_append_eq_shiftLeft_setWidth_or
  exact happend.trans (BitVec.or_assoc _ _ _)

/-- Opcode 0x02, fifteen zero bits and the index make GF_EXP's assembled word (R91, R96). -/
theorem append_eq_encode_gfExp (i : BitVec 9) : (0x02 : BitVec 8) ++ (0 : BitVec 15) ++ i = encode (.gfExp i) :=
  (BitVec.setWidth_eq _).symm.trans BitVec.setWidth_append_append_eq_shiftLeft_setWidth_or

/-- Opcode 0x03, two zero bytes and the operand make GF_LOG's assembled word (R91, R96). -/
theorem append_eq_encode_gfLog (a : Byte) : (0x03 : BitVec 8) ++ (0 : BitVec 16) ++ a = encode (.gfLog a) :=
  (BitVec.setWidth_eq _).symm.trans BitVec.setWidth_append_append_eq_shiftLeft_setWidth_or

/-- Settles O15: GF_MUL is the ROM product, which is the carry-less one. -/
theorem gfMulStoresFieldProduct : Obligations.GfMulStoresFieldProduct := fun a b _ =>
  ⟨append_eq_encode_gfMul a b ▸ decodeInvertsEncode _, gfMul_eq_fieldProduct a b ▸ rfl⟩

/-- Settles O16: up to index 510 the exponent ROM holds the power of α. -/
theorem gfExpStoresPowerOfAlpha : Obligations.GfExpStoresPowerOfAlpha := by
  refine fun i s => ⟨append_eq_encode_gfExp i ▸ decodeInvertsEncode _, fun hi => ?_, ?_⟩
  · rw [alphaPow_mod, ← expAt_eq_alphaPow hi]
    exact congrArg _ (if_neg (Nat.not_lt.mpr hi))
  · rintro rfl
    rfl

/-- Settles O17: the logarithm ROM holds an exponent, and one below 255 is the logarithm of its power. -/
theorem gfLogStoresTheExponent : Obligations.GfLogStoresTheExponent := by
  refine fun a s => ⟨append_eq_encode_gfLog a ▸ decodeInvertsEncode _, fun h => ?_, ?_⟩
  · obtain ⟨hpow, hle⟩ := alphaPow_logAt h
    refine ⟨logAt a, hle, hpow, fun k hk hka => ?_, congrArg _ (if_neg h)⟩
    rw [← hka, logAt_alphaPow (by omega)]
  · rintro rfl
    rfl

end Sys2Proof.Machine
end

section
/-! Polynomials over GF(256) by their value at a point, and the generator polynomial with its roots (spec 42 R150 to
R153). -/

namespace Sys2Proof.Machine

/-! ## The value of a polynomial -/

theorem xor_gfMul (a b c : Byte) : gfMul (a ^^^ b) c = gfMul a c ^^^ gfMul b c := by
  rw [gfMul_comm, gfMul_xor, gfMul_comm c a, gfMul_comm c b]

/-- Horner's rule for the coefficients `p`, begun with the value `acc` of the coefficients before them (R150). -/
def horner (x acc : Byte) (p : List Byte) : Byte := p.foldl (fun acc c => gfMul acc x ^^^ c) acc

theorem polyEval_eq_horner (p : List Byte) (x : Byte) : polyEval p x = horner x 0x00 p := rfl

@[simp] theorem horner_nil (x acc : Byte) : horner x acc [] = acc := rfl

@[simp] theorem horner_cons (x acc c : Byte) (p : List Byte) :
    horner x acc (c :: p) = horner x (gfMul acc x ^^^ c) p := rfl

/-- The first coefficient is where Horner's rule begins. -/
theorem polyEval_cons (c : Byte) (p : List Byte) (x : Byte) : polyEval (c :: p) x = horner x c p := by
  rw [polyEval_eq_horner, horner_cons, gfMul_zero_left]
  exact congrArg (horner x · p) BitVec.zero_xor

theorem polyEval_append (p q : List Byte) (x : Byte) : polyEval (p ++ q) x = horner x (polyEval p x) q :=
  List.foldl_append

/-- Evaluation is additive, in the beginning and in the coefficients together. -/
theorem horner_xor (x a b : Byte) {p q : List Byte} (h : p.length = q.length) :
    horner x (a ^^^ b) (List.zipWith (· ^^^ ·) p q) = horner x a p ^^^ horner x b q := by
  induction p generalizing a b q with
  | nil =>
    obtain rfl := List.length_eq_zero_iff.mp h.symm
    rfl
  | cons c p ih =>
    cases q with
    | nil => cases h
    | cons d q =>
      have hstep : gfMul (a ^^^ b) x ^^^ (c ^^^ d) = (gfMul a x ^^^ c) ^^^ (gfMul b x ^^^ d) := by
        rw [xor_gfMul]; ac_rfl
      rw [List.zipWith_cons_cons, horner_cons, hstep, ih _ _ (Nat.succ.inj h), horner_cons, horner_cons]

/-- A scalar factor comes out of an evaluation. -/
theorem horner_map_gfMul (x a acc : Byte) (p : List Byte) :
    horner x (gfMul acc a) (p.map (gfMul · a)) = gfMul (horner x acc p) a := by
  induction p generalizing acc with
  | nil => rfl
  | cons c p ih =>
    have hstep : gfMul (gfMul acc a) x ^^^ gfMul c a = gfMul (gfMul acc x ^^^ c) a := by
      rw [xor_gfMul, gfMul_assoc, gfMul_comm a x, ← gfMul_assoc]
    rw [List.map_cons, horner_cons, hstep, ih, horner_cons]

/-! ## One linear factor -/

/-- Multiplying by (x ⊕ a) multiplies the value at every point y by y ⊕ a (R152). -/
theorem polyEval_mulLinear (g : List Byte) (a y : Byte) :
    polyEval (mulLinear g a) y = gfMul (polyEval g y) (y ^^^ a) := by
  have hlen : (g ++ [0x00]).length = (0x00 :: g.map (gfMul · a)).length := by simp
  have hshift : polyEval (g ++ [0x00]) y = gfMul (polyEval g y) y := by
    rw [polyEval_append, horner_cons, horner_nil]
    exact BitVec.xor_zero
  have hscale : polyEval (0x00 :: g.map (gfMul · a)) y = gfMul (polyEval g y) a := by
    rw [polyEval_cons, polyEval_eq_horner, ← horner_map_gfMul, gfMul_zero_left]
  calc polyEval (mulLinear g a) y
      = polyEval (g ++ [0x00]) y ^^^ polyEval (0x00 :: g.map (gfMul · a)) y := horner_xor y 0x00 0x00 hlen
    _ = gfMul (polyEval g y) (y ^^^ a) := by rw [hshift, hscale, gfMul_xor]

/-- The first coefficient stays (R152). -/
theorem mulLinear_cons (c : Byte) (g : List Byte) (a : Byte) : ∃ g', mulLinear (c :: g) a = c :: g' :=
  ⟨_, congrArg (· :: _) BitVec.xor_zero⟩

/-- The new last coefficient is the old one times a (R152). -/
theorem mulLinear_getLast? (g : List Byte) (c a : Byte) :
    (mulLinear (g ++ [c]) a).getLast? = some (gfMul c a) := by
  have hsplit : mulLinear (g ++ [c]) a =
      List.zipWith (· ^^^ ·) (g ++ [c]) (0x00 :: g.map (gfMul · a)) ++ [0x00 ^^^ gfMul c a] := by
    rw [mulLinear, List.map_append, ← List.cons_append]
    exact List.zipWith_append (by simp)
  rw [hsplit, List.getLast?_concat]
  exact congrArg some BitVec.zero_xor

/-! ## The generator -/

/-- The generator is monic (R151). -/
theorem generator_eq_cons (n : Nat) : generator n = 0x01 :: (generator n).tail := by
  induction n with
  | zero => rfl
  | succ n ih =>
    obtain ⟨g', hg⟩ := mulLinear_cons 0x01 (generator n).tail (expAt n)
    rw [generator, ih, hg]
    rfl

/-- The generator of parity length n is 0 at α^d for every d < n: its last factor is x ⊕ α^(n-1), and the factors before
it have the other roots (R151). -/
theorem polyEval_generator {n d : Nat} (hn : n ≤ 511) (hd : d < n) : polyEval (generator n) (alphaPow d) = 0x00 := by
  induction n with
  | zero => exact absurd hd (Nat.not_lt_zero d)
  | succ n ih =>
    rw [generator, polyEval_mulLinear, expAt_eq_alphaPow (by omega)]
    obtain hlt | rfl := Nat.lt_succ_iff_lt_or_eq.mp hd
    · rw [ih (by omega) hlt]
      exact gfMul_zero_left _
    · rw [BitVec.xor_self]
      exact gfMul_zero_right _

/-- The constant coefficient of the generator is the product of the roots α^0 .. α^(n-1) (R153). -/
theorem generator_getLast? {n : Nat} (hn : n ≤ 511) : (generator n).getLast? = some (alphaPow (n * (n - 1) / 2)) := by
  induction n with
  | zero => rfl
  | succ n ih =>
    obtain ⟨g, hg⟩ := List.getLast?_eq_some_iff.mp (ih (by omega))
    rw [generator, hg, mulLinear_getLast?, expAt_eq_alphaPow (by omega), gfMul_alphaPow, Nat.triangle_succ]

/-! ## The generator store -/

theorem genStore_toList_getElem? (g : List Byte) {j : Nat} (h : j < 256) :
    (genStore g).toList[j]? = some (g.getD j 0x00) := by
  simp [genStore, h]

/-- The store holds the coefficients, and 0x00 behind them (R152). -/
theorem genStore_getD {g : List Byte} (hg : g.length ≤ 256) (j : Nat) :
    (genStore g).toList.getD j 0x00 = g.getD j 0x00 := by
  rw [List.getD_eq_getElem?_getD]
  by_cases hj : j < 256
  · rw [genStore_toList_getElem? g hj, Option.getD_some]
  · rw [List.getElem?_eq_none (by simp; omega), List.getD_eq_default _ _ (by omega)]
    rfl

/-- The store begins with the coefficients (R152). -/
theorem genStore_take {g : List Byte} (hg : g.length ≤ 256) : (genStore g).toList.take g.length = g := by
  refine List.ext_getElem? fun j => ?_
  rw [List.getElem?_take]
  by_cases hj : j < g.length
  · rw [if_pos hj, genStore_toList_getElem? g (by omega), List.getD_eq_getElem _ _ hj, List.getElem?_eq_getElem hj]
  · rw [if_neg hj, List.getElem?_eq_none (by omega)]

/-- GEN[0..n] is the generator of degree n once it was stored (R152). -/
theorem genStore_generator_take {n : Nat} (h : n ≤ 255) :
    (genStore (generator n)).toList.take (n + 1) = generator n := by
  have hlen := generator_length n
  rw [← hlen]
  exact genStore_take (by omega)

/-! ## RS_GEN -/

/-- Opcode 0x10, two zero bytes and the operand make RS_GEN's assembled word (R91, R96). -/
theorem append_eq_encode_rsGen (n : BitVec 8) : (0x10 : BitVec 8) ++ (0 : BitVec 16) ++ n = encode (.rsGen n) :=
  (BitVec.setWidth_eq _).symm.trans BitVec.setWidth_append_append_eq_shiftLeft_setWidth_or

/-- Settles O18: the store holds the generator, whose coefficients and roots are known by induction on its factors. -/
theorem rsGenLeavesGenerator : Obligations.RsGenLeavesGenerator := by
  intro n s
  have hlen := generator_length n.toNat
  have hcoeff := genStore_getD (g := generator n.toNat) (by omega)
  refine ⟨append_eq_encode_rsGen n ▸ decodeInvertsEncode _, _, rfl, rfl, ?_, fun j hj => ?_, fun d hd => ?_, ?_⟩
  · refine (hcoeff 0).trans ?_
    rw [generator_eq_cons, List.getD_cons_zero]
  · exact (hcoeff j).trans (List.getD_eq_default _ _ (by omega))
  · change polyEval ((genStore (generator n.toNat)).toList.take (n.toNat + 1)) (alphaPow d) = 0x00
    rw [genStore_generator_take (by omega), polyEval_generator (by omega) hd]
  · have hlast : (generator n.toNat)[n.toNat]? = some (alphaPow (n.toNat * (n.toNat - 1) / 2)) := by
      rw [← generator_getLast? (by omega), List.getLast?_eq_getElem?, hlen, Nat.add_sub_cancel]
    refine (hcoeff n.toNat).trans ?_
    rw [List.getD_eq_getElem?_getD, hlast, expAt_eq_alphaPow (by omega), alphaPow_mod]
    rfl

end Sys2Proof.Machine
end

section
/-! The divider: one elimination step, its linearity, and the shift register that does the same (spec 42 R160, R162,
R166). -/

namespace Sys2Proof.Machine

/-! ## Adding into a buffer -/

@[simp] theorem xorInto_nil (w : List Byte) : xorInto w [] = w := by cases w <;> rfl

@[simp] theorem xorInto_cons (c a : Byte) (w h : List Byte) :
    xorInto (c :: w) (a :: h) = (c ^^^ a) :: xorInto w h := rfl

theorem xorInto_replicate_zero (w : List Byte) (n : Nat) : xorInto w (List.replicate n 0x00) = w := by
  induction w generalizing n with
  | nil => rfl
  | cons c w ih =>
    cases n with
    | zero => rfl
    | succ n => rw [List.replicate_succ, xorInto_cons, ih]; exact congrArg (· :: w) BitVec.xor_zero

theorem replicate_zero_xorInto (h : List Byte) : xorInto (List.replicate h.length 0x00) h = h := by
  induction h with
  | nil => rfl
  | cons a h ih =>
    rw [List.length_cons, List.replicate_succ, xorInto_cons, ih]
    exact congrArg (· :: h) BitVec.zero_xor

/-- Adding is additive in the buffer and the list added together. -/
theorem xorInto_zipWith {w v g h : List Byte} (hw : w.length = v.length) (hg : g.length = h.length) :
    xorInto (List.zipWith (· ^^^ ·) w v) (List.zipWith (· ^^^ ·) g h) =
      List.zipWith (· ^^^ ·) (xorInto w g) (xorInto v h) := by
  induction w generalizing v g h with
  | nil => rfl
  | cons c w ih =>
    cases v with
    | nil => cases hw
    | cons d v =>
      cases g with
      | nil =>
        obtain rfl := List.length_eq_zero_iff.mp hg.symm
        rfl
      | cons a g =>
        cases h with
        | nil => cases hg
        | cons b h =>
          have hhead : c ^^^ d ^^^ (a ^^^ b) = c ^^^ a ^^^ (d ^^^ b) := by ac_rfl
          simp only [List.zipWith_cons_cons, xorInto_cons, hhead, ih (Nat.succ.inj hw) (Nat.succ.inj hg)]

/-- A scalar factor goes into the buffer and the list added. -/
theorem map_gfMul_xorInto (a : Byte) (w h : List Byte) :
    (xorInto w h).map (gfMul a) = xorInto (w.map (gfMul a)) (h.map (gfMul a)) := by
  induction w generalizing h with
  | nil => rfl
  | cons c w ih =>
    cases h with
    | nil => rfl
    | cons b h => simp only [List.map_cons, xorInto_cons, gfMul_xor, ih]

/-! ## One elimination step -/

/-- The buffer after its leading coefficient `c` was taken off (R160). -/
def elimStep (g : List Byte) (c : Byte) (w : List Byte) : List Byte := xorInto w (g.map (gfMul · c))

/-- A step with leading coefficient 0 adds only zeros, so the test of R160 saves work and changes no value. -/
theorem eliminate_succ_cons (g : List Byte) (k : Nat) (c : Byte) (w : List Byte) :
    eliminate g (k + 1) (c :: w) = eliminate g k (elimStep g c w) := by
  rw [eliminate, elimStep]
  split
  · rename_i hc
    have hzeros : g.map (gfMul · c) = List.replicate g.length 0x00 := by
      rw [hc, ← List.map_const']
      exact List.map_congr_left fun a _ => gfMul_zero_right a
    rw [hzeros, xorInto_replicate_zero]
  · rfl

@[simp] theorem eliminate_nil (g : List Byte) (k : Nat) : eliminate g k [] = [] := by cases k <;> rfl

theorem elimStep_length (g : List Byte) (c : Byte) (w : List Byte) : (elimStep g c w).length = w.length :=
  xorInto_length _ _

theorem elimStep_xor (g : List Byte) (c d : Byte) {w v : List Byte} (h : w.length = v.length) :
    elimStep g (c ^^^ d) (List.zipWith (· ^^^ ·) w v) =
      List.zipWith (· ^^^ ·) (elimStep g c w) (elimStep g d v) := by
  have hscaled : g.map (gfMul · (c ^^^ d)) = List.zipWith (· ^^^ ·) (g.map (gfMul · c)) (g.map (gfMul · d)) := by
    simp only [List.zipWith_map, List.zipWith_self, gfMul_xor]
  rw [elimStep, hscaled]
  exact xorInto_zipWith h (by simp)

theorem map_gfMul_elimStep (g : List Byte) (a c : Byte) (w : List Byte) :
    (elimStep g c w).map (gfMul a) = elimStep g (gfMul a c) (w.map (gfMul a)) := by
  have hscaled : (g.map (gfMul · c)).map (gfMul a) = g.map (gfMul · (gfMul a c)) := by
    rw [List.map_map]
    refine List.map_congr_left fun b _ => ?_
    rw [Function.comp_apply, gfMul_comm b (gfMul a c), gfMul_assoc, gfMul_comm c b]
  rw [elimStep, map_gfMul_xorInto, hscaled, elimStep]

/-! ## The divider is linear -/

theorem eliminate_xor (g : List Byte) (k : Nat) {w v : List Byte} (h : w.length = v.length) :
    eliminate g k (List.zipWith (· ^^^ ·) w v) = List.zipWith (· ^^^ ·) (eliminate g k w) (eliminate g k v) := by
  induction k generalizing w v with
  | zero => rfl
  | succ k ih =>
    cases w with
    | nil => rw [List.zipWith_nil_left, eliminate_nil, List.zipWith_nil_left]
    | cons c w =>
      cases v with
      | nil => cases h
      | cons d v =>
        have hlen : w.length = v.length := Nat.succ.inj h
        have hstep : (elimStep g c w).length = (elimStep g d v).length := by simp only [elimStep_length, hlen]
        simp only [List.zipWith_cons_cons, eliminate_succ_cons, elimStep_xor g c d hlen, ih hstep]

theorem eliminate_map_gfMul (g : List Byte) (a : Byte) (k : Nat) (w : List Byte) :
    eliminate g k (w.map (gfMul a)) = (eliminate g k w).map (gfMul a) := by
  induction k generalizing w with
  | zero => rfl
  | succ k ih =>
    cases w with
    | nil => rfl
    | cons c w => rw [List.map_cons, eliminate_succ_cons, eliminate_succ_cons, ← ih, map_gfMul_elimStep]

/-- A leading zero is taken off by a step that adds nothing (R162). -/
theorem rsParity_zero_cons (g d : List Byte) : rsParity g (0x00 :: d) = rsParity g d := rfl

theorem rsParity_xor (g : List Byte) {d e : List Byte} (h : d.length = e.length) :
    rsParity g (List.zipWith (· ^^^ ·) d e) = List.zipWith (· ^^^ ·) (rsParity g d) (rsParity g e) := by
  have hzeros : List.zipWith (· ^^^ ·) (List.replicate g.length (0x00 : Byte)) (List.replicate g.length 0x00) =
      List.replicate g.length 0x00 := List.zipWith_replicate'
  have hbuffer : List.zipWith (· ^^^ ·) d e ++ List.replicate g.length 0x00 =
      List.zipWith (· ^^^ ·) (d ++ List.replicate g.length 0x00) (e ++ List.replicate g.length 0x00) := by
    rw [List.zipWith_append h, hzeros]
  have hlen : (List.zipWith (· ^^^ ·) d e).length = d.length := by simp [h]
  rw [rsParity, hbuffer, hlen, eliminate_xor g _ (by simp [h]), rsParity, rsParity, h]

theorem rsParity_map_gfMul (g : List Byte) (a : Byte) (d : List Byte) :
    rsParity g (d.map (gfMul a)) = (rsParity g d).map (gfMul a) := by
  have hzeros : List.replicate g.length 0x00 = (List.replicate g.length 0x00).map (gfMul a) := by
    rw [List.map_replicate]
    exact congrArg _ (gfMul_zero_right a).symm
  rw [rsParity, rsParity, List.length_map, ← eliminate_map_gfMul, List.map_append, ← hzeros]

theorem rsParity_replicate_zero (g : List Byte) (k : Nat) :
    rsParity g (List.replicate k 0x00) = List.replicate g.length 0x00 := by
  induction k with
  | zero => rfl
  | succ k ih => rw [List.replicate_succ, rsParity_zero_cons, ih]

/-- Settles O22: every elimination step is linear, and one on a leading zero only takes the zero off. -/
theorem rsParityIsLinear : Obligations.RsParityIsLinear := fun g d _ c h =>
  ⟨rsParity_xor g h, rsParity_map_gfMul g c d, rsParity_replicate_zero g, rsParity_zero_cons g d⟩

/-! ## The shift register -/

/-- A register with a zero shifted in behind it, then fed back: added into a buffer at once or one after the other. -/
theorem xorInto_xorInto (w : List Byte) {r h : List Byte} (hlen : h.length = r.length + 1) :
    xorInto (xorInto w r) h = xorInto w (List.zipWith (· ^^^ ·) (r ++ [0x00]) h) := by
  induction r generalizing w h with
  | nil =>
    obtain ⟨a, rfl⟩ := List.length_eq_one_iff.mp hlen
    rw [xorInto_nil]
    exact congrArg (xorInto w [·]) BitVec.zero_xor.symm
  | cons b r ih =>
    cases h with
    | nil => cases hlen
    | cons a h =>
      cases w with
      | nil => rfl
      | cons c w =>
        simp only [xorInto_cons, List.cons_append, List.zipWith_cons_cons, ih w (Nat.succ.inj hlen), BitVec.xor_assoc]

/-- A clock keeps the register's length (R166). -/
theorem lfsrClock_length {g r : List Byte} (c : Byte) (h : r.length = g.length) :
    (lfsrClock g r c).length = g.length := by
  cases r with
  | nil => exact h
  | cons r0 rest =>
    rw [lfsrClock, List.length_zipWith, List.length_append, ← h]
    exact Nat.min_self _

/-- A buffer with the register added to its first entries makes an elimination step when the register makes a clock:
the feedback of the clock is the leading coefficient of the step (R166). -/
theorem eliminate_xorInto_cons (g : List Byte) (k : Nat) {r : List Byte} (c : Byte) (w : List Byte)
    (h : r.length = g.length) :
    eliminate g (k + 1) (xorInto (c :: w) r) = eliminate g k (xorInto w (lfsrClock g r c)) := by
  cases r with
  | nil =>
    obtain rfl := List.length_eq_zero_iff.mp h.symm
    simp only [xorInto_nil, eliminate_succ_cons, lfsrClock, elimStep, List.map_nil]
  | cons r0 rest =>
    have hlen : (g.map (gfMul · (c ^^^ r0))).length = rest.length + 1 := by rw [List.length_map, ← h]; rfl
    rw [xorInto_cons, eliminate_succ_cons, elimStep, xorInto_xorInto w hlen, List.zipWith_map_right]
    rfl

/-- The register that started as `r` ends with what the divider leaves of the data with `r` added into their buffer. -/
theorem foldl_lfsrClock (g d : List Byte) {r : List Byte} (h : r.length = g.length) :
    d.foldl (lfsrClock g) r = eliminate g d.length (xorInto (d ++ List.replicate g.length 0x00) r) := by
  induction d generalizing r with
  | nil => rw [List.nil_append, ← h, replicate_zero_xorInto]; rfl
  | cons c d ih => rw [List.foldl_cons, ih (lfsrClock_length c h), ← eliminate_xorInto_cons g _ c _ h]; rfl

/-- Settles O23: the register starts at 0, which adds nothing to the divider's buffer. -/
theorem dividerEqualsShiftRegister : Obligations.DividerEqualsShiftRegister := fun g d => by
  rw [lfsrParity, foldl_lfsrClock g d List.length_replicate, xorInto_replicate_zero, rsParity]

end Sys2Proof.Machine
end

section
/-! RS_ENC: its checks, the parity it stores, and the codeword it makes, which is 0 at every root of the generator (spec
42 R161, R163 to R165). -/

namespace Sys2Proof.Machine

/-! ## The checks -/

/-- RS_ENC ends with the error of its first failing check (R163, R262). -/
theorem exec_rsEnc_of_check {blk : BitVec 8} {s : State} {e : ErrCode} (h : s.rsEncCheck blk.toNat = some e) :
    exec (.rsEnc blk) s = .next (s.afterError e.code) := by
  change execRsEnc blk s = _
  rw [execRsEnc, h]
  exact congrArg _ (completeErr_eq s e)

/-- With its checks met, RS_ENC stores the parity (R165). -/
theorem exec_rsEnc_of_ready {blk : BitVec 8} {s : State} (h : RsEncReady blk s) :
    exec (.rsEnc blk) s =
      .next (s.setBytes (cwBase + (s.descriptor blk.toNat).eoff) (s.blockParity blk.toNat)).completeOk := by
  change execRsEnc blk s = _
  rw [execRsEnc, (rsEncCheck_eq_none blk s).mpr h]

/-- The block is not one of the BLK_COUNT blocks, or BLK_COUNT is out of range (R30, R163). -/
theorem blkRange_iff (s : State) (blk : Nat) : (s.blkCountBad || decide (blk ≥ s.blkCount.toNat)) = true ↔
    s.blkCount.toNat = 0 ∨ s.blkCount.toNat > 128 ∨ blk ≥ s.blkCount.toNat := by
  unfold State.blkCountBad blkMax
  simp only [Bool.or_eq_true, decide_eq_true_eq, or_assoc]

theorem inRange_iff (d : BlockDesc) : d.inRange = true ↔ d.doff + d.dlen ≤ 4096 ∧ d.eoff + d.elen ≤ 4096 := by
  unfold BlockDesc.inRange cwBytes
  simp only [Bool.and_eq_true, decide_eq_true_eq]

section Checks

variable {s : State} {blk : Nat}

theorem rsEncCheck_noGen (hv : s.genValid = false) : s.rsEncCheck blk = some .noGen := by
  rw [State.rsEncCheck, hv]
  rfl

/-- With GEN valid, the other three checks as arithmetic, in their order (R163). -/
theorem rsEncCheck_of_valid (hv : s.genValid = true) : s.rsEncCheck blk =
    if s.blkCount.toNat = 0 ∨ s.blkCount.toNat > 128 ∨ blk ≥ s.blkCount.toNat then some .blkRange
    else if ¬((s.descriptor blk).doff + (s.descriptor blk).dlen ≤ 4096 ∧
      (s.descriptor blk).eoff + (s.descriptor blk).elen ≤ 4096) then some .desc
    else if (s.descriptor blk).elen ≠ s.genDeg.toNat then some .nsym else none := by
  simp only [State.rsEncCheck, hv, blkRange_iff, ← inRange_iff, Bool.not_true, Bool.false_eq_true, if_false,
    Bool.not_eq_true', Bool.not_eq_true]

end Checks

/-- Settles O21: each code is that of the first check that fails. -/
theorem rsEncChecksInOrder : Obligations.RsEncChecksInOrder := by
  refine fun blk s => ⟨fun hv => exec_rsEnc_of_check (rsEncCheck_noGen hv), fun hv => ?_⟩
  have hcheck := rsEncCheck_of_valid (blk := blk.toNat) hv
  refine ⟨fun hblk => exec_rsEnc_of_check (e := .blkRange) ?_, fun h1 h128 hlt => ?_⟩
  · rw [hcheck, if_pos hblk]
  · rw [if_neg (by omega)] at hcheck
    refine ⟨fun hrange => exec_rsEnc_of_check (e := .desc) ?_,
      fun hd he hlen => exec_rsEnc_of_check (e := .nsym) ?_⟩
    · rw [hcheck, if_pos (by omega)]
    · rw [hcheck, if_neg (not_not_intro ⟨hd, he⟩), if_pos hlen]

/-! ## The parity in memory -/

/-- Settles O20: the parity has GEN_DEG codewords, which stand where they were stored, and no other byte was touched. -/
theorem rsEncStoresParity : Obligations.RsEncStoresParity := by
  intro blk s hready
  have hlen := s.blockParity_length blk.toNat
  refine ⟨_, exec_rsEnc_of_ready hready, congrArg State.completeOk (State.setBytes_eq _ _ _), fun k hk => ?_,
    fun a ha => ?_⟩
  · rw [State.completeOk_ram, State.read?_setBytes, cwBase, if_pos (by omega), Nat.add_sub_cancel_left]
    rfl
  · rw [State.completeOk_ram, State.read?_setBytes, cwBase, if_neg (by omega)]

/-- Codewords that hold written bytes are those bytes (R8, R43). -/
theorem State.codewords_of_read? {t : State} {off : Nat} {bs : List Byte}
    (h : ∀ k, k < bs.length → t.ram.read? (0x1000 + off + k) = bs[k]?) : t.codewords off bs.length = bs := by
  refine List.ext_getElem (by simp [State.codewords]) fun k _ hk => ?_
  have hbyte : t.byteAt (0x1000 + off + k) = bs[k] :=
    State.byteAt_of_read? ((h k hk).trans (List.getElem?_eq_getElem hk))
  rw [← hbyte, Nat.add_assoc]
  simp [State.codewords, State.codeword, cwBase]

/-! ## The codeword as a polynomial -/

section Root

variable {g : List Byte} {x : Byte}

/-- Adding a list that Horner's rule takes to 0 into the buffer takes its beginning out of the value. -/
theorem horner_xorInto {a b : Byte} {w h : List Byte} (hlen : h.length ≤ w.length) (hzero : horner x b h = 0x00) :
    horner x (a ^^^ b) (xorInto w h) = horner x a w := by
  induction h generalizing a b w with
  | nil =>
    rw [xorInto_nil, show b = 0x00 from hzero]
    exact congrArg (horner x · w) BitVec.xor_zero
  | cons c h ih =>
    cases w with
    | nil => cases hlen
    | cons d w =>
      have hstep : gfMul (a ^^^ b) x ^^^ (d ^^^ c) = (gfMul a x ^^^ d) ^^^ (gfMul b x ^^^ c) := by
        rw [xor_gfMul]; ac_rfl
      rw [xorInto_cons, horner_cons, hstep, ih (Nat.le_of_succ_le_succ hlen) hzero, horner_cons]

/-- An elimination step keeps the value at a root of the generator: it adds a multiple of the generator (R160, R161). -/
theorem polyEval_elimStep (hroot : polyEval (0x01 :: g) x = 0x00) (c : Byte) {w : List Byte}
    (hlen : g.length ≤ w.length) : polyEval (elimStep g c w) x = polyEval (c :: w) x := by
  have hmultiple : horner x c (g.map (gfMul · c)) = 0x00 := by
    rw [polyEval_cons] at hroot
    have h := horner_map_gfMul x c 0x01 g
    rwa [gfMul_one_left, hroot, gfMul_zero_left] at h
  have h := horner_xorInto (a := c) ((List.length_map _).trans_le hlen) hmultiple
  rw [BitVec.xor_self] at h
  rw [polyEval_cons, ← h]
  rfl

/-- The divider keeps the value at a root of the generator as long as n entries stand behind the leading one. -/
theorem polyEval_eliminate (hroot : polyEval (0x01 :: g) x = 0x00) (k : Nat) {w : List Byte}
    (hlen : k + g.length ≤ w.length) : polyEval (eliminate g k w) x = polyEval w x := by
  induction k generalizing w with
  | zero => rfl
  | succ k ih =>
    cases w with
    | nil => rfl
    | cons c w =>
      have hw : k + g.length ≤ w.length := by rw [List.length_cons] at hlen; omega
      rw [eliminate_succ_cons, ih (by rwa [elimStep_length]), polyEval_elimStep hroot c (by omega)]

/-- Zeros are neutral for the addition of polynomials. -/
theorem zipWith_xor_replicate_zero (q : List Byte) :
    List.zipWith (· ^^^ ·) (List.replicate q.length 0x00) q = q := by
  induction q with
  | nil => rfl
  | cons c q ih =>
    rw [List.length_cons, List.replicate_succ, List.zipWith_cons_cons, ih]
    exact congrArg (· :: q) BitVec.zero_xor

/-- The value of the data followed by `q` is that of the data followed by zeros, plus that of `q`. -/
theorem polyEval_append_eq_xor (d q : List Byte) : polyEval (d ++ q) x =
    polyEval (d ++ List.replicate q.length 0x00) x ^^^ polyEval q x := by
  rw [polyEval_append, polyEval_append, polyEval_eq_horner q, ← horner_xor _ _ _ List.length_replicate,
    zipWith_xor_replicate_zero]
  exact congrArg (horner x · q) BitVec.xor_zero.symm

/-- Data followed by their parity is 0 at a root of the generator: the data followed by zeros has the value of the
parity there, and the codeword is the sum of the two (R161). -/
theorem polyEval_append_rsParity (hroot : polyEval (0x01 :: g) x = 0x00) (d : List Byte) :
    polyEval (d ++ rsParity g d) x = 0x00 := by
  have hparity : polyEval (rsParity g d) x = polyEval (d ++ List.replicate g.length 0x00) x :=
    polyEval_eliminate hroot d.length (by simp)
  rw [polyEval_append_eq_xor, rsParity_length, hparity]
  exact BitVec.xor_self

end Root

/-- The generator in GEN is its leading 1 and the coefficients the divider multiplies by (R152, R160). -/
theorem GenInv.generator_eq {s : State} (h : GenInv s) (hv : s.genValid = true) :
    generator s.genDeg.toNat = 0x01 :: s.genTail := by
  have htail : (generator s.genDeg.toNat).tail = s.genTail := by
    rw [← genStore_generator_take (by omega), ← h.1 hv, State.genTail, ← List.drop_one, List.drop_take,
      Nat.add_sub_cancel]
  rw [generator_eq_cons, htail]

/-- Settles O19: the parity stored is the divider's, and each α^d with d < n is a root of the generator. -/
theorem rsEncWritesCodeword : Obligations.RsEncWritesCodeword := by
  intro blk s hinv hready
  obtain ⟨t, ht, -, hbytes, -⟩ := rsEncStoresParity blk s hready
  refine ⟨t, ht, fun d hd => ?_⟩
  obtain ⟨hv, -, -, -, -, -, hlen⟩ := hready
  have hparity : t.codewords (s.descriptor blk.toNat).eoff (s.descriptor blk.toNat).elen = s.blockParity blk.toNat := by
    rw [hlen, ← s.blockParity_length blk.toNat]
    exact State.codewords_of_read? fun k hk => hbytes k (hk.trans_eq (s.blockParity_length blk.toNat))
  have hroot : polyEval (0x01 :: s.genTail) (alphaPow d) = 0x00 := by
    rw [← hinv.generator_eq hv]
    exact polyEval_generator (by omega) hd
  rw [hparity]
  exact polyEval_append_rsParity hroot _

end Sys2Proof.Machine
end

section
/-! PLACE's checks in their order, and the meaning of the template check among them (spec 43 R181, R182). -/

namespace Sys2Proof.Machine

/-! ## The template check -/

/-- A template code is a fixed value when it is 0b00 or 0b01 (R40). -/
theorem fixedCode_iff (x : BitVec 2) : (x == 0b00 || x == 0b01) = true ↔ x.toNat ≤ 1 := by
  revert x; decide

/-- The format positions are the fifteen of copy A, and with both copies the fifteen of copy B (R212). -/
theorem forall_mem_fmtCells {p : Config.Params} {n : Nat} {P : Nat × Nat → Prop} :
    (∀ rc ∈ fmtCells p n, P rc) ↔
      (∀ rc ∈ fmtCellsA, P rc) ∧ (p.copyB = .both → ∀ rc ∈ fmtCellsB n, P rc) := by
  unfold fmtCells
  cases p.copyB with
  | both => simp [or_imp, forall_and]
  | aOnly => simp

/-- All elements of a list meet a condition when the ones at its indices do. -/
theorem forall_mem_iff_getD {α : Type} {l : List α} {k : Nat} (hk : l.length = k) (d : α) {P : α → Prop} :
    (∀ x ∈ l, P x) ↔ ∀ i, i < k → P (l.getD i d) := by
  subst hk
  rw [List.forall_mem_iff_forall_getElem]
  exact forall_congr' fun i => forall_congr' fun hi => by rw [List.getD_eq_getElem _ _ hi]

/-- The template check, with the format positions by their index (R182). -/
theorem tmplOk_iff (s : State) : s.tmplOk = true ↔
    (∀ r c, r < s.side → c < s.side → s.tmplCell r c ≠ 0b11) ∧
    (∀ k, k < 15 → (s.tmplCell (fmtCellsA.getD k (0, 0)).1 (fmtCellsA.getD k (0, 0)).2).toNat ≤ 1 ∧
      (s.params.copyB = .both →
        (s.tmplCell ((fmtCellsB s.side).getD k (0, 0)).1 ((fmtCellsB s.side).getD k (0, 0)).2).toNat ≤ 1)) := by
  have hgrid : (∀ rc ∈ gridCells s.side, (s.tmplCell rc.1 rc.2 != tmplReserved) = true) ↔
      ∀ r c, r < s.side → c < s.side → s.tmplCell r c ≠ 0b11 := by
    simp [Prod.forall, tmplReserved]
  have hA := forall_mem_iff_getD (l := fmtCellsA) (k := 15) rfl (0, 0)
    (P := fun rc => (s.tmplCell rc.1 rc.2).toNat ≤ 1)
  have hB := forall_mem_iff_getD (l := fmtCellsB s.side) (k := 15) rfl (0, 0)
    (P := fun rc => (s.tmplCell rc.1 rc.2).toNat ≤ 1)
  simp only [State.tmplOk, Bool.and_eq_true, List.all_eq_true, hgrid, fixedCode_iff]
  rw [forall_mem_fmtCells, hA, hB]
  exact and_congr_right fun _ => ⟨fun ⟨ha, hb⟩ k hk => ⟨ha k hk, fun hboth => hb hboth k hk⟩,
    fun h => ⟨fun k hk => (h k hk).1, fun hboth k hk => (h k hk).2 hboth⟩⟩

/-- The cells of copy A lie within the upper left 9 × 9 cells (R212). -/
theorem le_of_mem_fmtCellsA : ∀ rc ∈ fmtCellsA, rc.1 ≤ 8 ∧ rc.2 ≤ 8 := by decide

/-- The cells of copy B lie in the last eight rows or columns (R212). -/
theorem le_of_mem_fmtCellsB {n : Nat} : ∀ rc ∈ fmtCellsB n, n ≤ rc.1 + 8 ∨ n ≤ rc.2 + 8 := by
  simp only [fmtCellsB, List.forall_mem_cons, List.not_mem_nil, false_imp_iff, implies_true, and_true]
  omega

/-- From side 21 on no row or column of copy B is cut off at 0 or meets row or column 8, so its cells differ (R212). -/
theorem fmtCellsB_nodup {n : Nat} (h : 21 ≤ n) : (fmtCellsB n).Nodup := by
  simp only [fmtCellsB, List.nodup_cons, List.mem_cons, Prod.mk.injEq, List.not_mem_nil, or_false, not_false_eq_true,
    List.nodup_nil, and_true]
  omega

/-- The two copies share no cell from side 21 on (R212). -/
theorem fmtCells_nodup {n : Nat} (h : 21 ≤ n) : (fmtCellsA ++ fmtCellsB n).Nodup := by
  refine List.nodup_append.mpr ⟨by decide, fmtCellsB_nodup h, fun a ha b hb hab => ?_⟩
  have hA := le_of_mem_fmtCellsA a ha
  have hB := le_of_mem_fmtCellsB b hb
  subst hab
  omega

/-- Bit `i` of a template code is bit `i` of its two-bit field in the template byte (R40). -/
theorem getLsbD_tmplCell (s : State) (r c : Nat) {i : Nat} (hi : i < 2) :
    (s.tmplCell r c).getLsbD i = (s.byteAt (0x8000 + 64 * r + c / 4)).getLsbD (2 * (c % 4) + i) := by
  rw [State.tmplCell, tmplBase, BitVec.getLsbD_extractLsb', decide_eq_true hi, Bool.true_and]

/-- Settles O30: a code of at most 1 is a fixed one, and the copies keep apart, copy A among the first nine rows and
columns and copy B in the last eight rows or columns. -/
theorem templateCheckMeaning : Obligations.TemplateCheckMeaning := by
  refine ⟨tmplOk_iff, rfl, fun _ => rfl, fun _ => fmtCells_nodup, fun p n => ⟨fun h => ?_, fun h => ?_⟩,
    fun s => ⟨rfl, fun r c => ⟨getLsbD_tmplCell s r c Nat.zero_lt_two, getLsbD_tmplCell s r c Nat.one_lt_two⟩⟩⟩
  · rw [fmtCells, h]
  · rw [fmtCells, h]

/-! ## The checks -/

/-- PLACE ends with the error of its first failing check (R181, R262). -/
theorem exec_place_of_check {s : State} {e : ErrCode} (h : s.placeCheck = some e) :
    exec .place s = .next (s.afterError e.code) := by
  change execPlace s = _
  rw [execPlace, h]
  exact congrArg _ (completeErr_eq s e)

theorem versionOk_iff (s : State) : s.versionOk = true ↔ 1 ≤ s.version.toNat ∧ s.version.toNat ≤ 40 := by
  unfold State.versionOk
  simp only [Bool.and_eq_true, decide_eq_true_eq]

theorem blkCountBad_iff (s : State) : s.blkCountBad = true ↔ s.blkCount.toNat = 0 ∨ s.blkCount.toNat > 128 := by
  unfold State.blkCountBad blkMax
  simp only [Bool.or_eq_true, decide_eq_true_eq]

/-- The four checks as arithmetic, in their order (R181). -/
theorem placeCheck_eq (s : State) : s.placeCheck =
    if ¬(1 ≤ s.version.toNat ∧ s.version.toNat ≤ 40) then some .version
    else if ¬s.tmplOk = true then some .tmpl
    else if s.blkCount.toNat = 0 ∨ s.blkCount.toNat > 128 then some .blkRange
    else if ¬∀ b, b < s.blkCount.toNat → (s.descriptor b).doff + (s.descriptor b).dlen ≤ 4096 ∧
      (s.descriptor b).eoff + (s.descriptor b).elen ≤ 4096 then some .desc
    else none := by
  have hdesc : (List.range s.blkCount.toNat).all (fun b => (s.descriptor b).inRange) = true ↔
      ∀ b, b < s.blkCount.toNat → (s.descriptor b).doff + (s.descriptor b).dlen ≤ 4096 ∧
        (s.descriptor b).eoff + (s.descriptor b).elen ≤ 4096 := by
    simp only [List.all_eq_true, List.mem_range, inRange_iff]
  simp only [State.placeCheck, ← versionOk_iff, ← blkCountBad_iff, ← hdesc, Bool.not_eq_true', Bool.not_eq_true]

/-- Settles O29: each code is that of the first check that fails. -/
theorem placeChecksInOrder : Obligations.PlaceChecksInOrder := by
  intro s
  have hcheck := placeCheck_eq s
  refine ⟨fun hversion => exec_place_of_check (e := .version) ?_, fun h1 h40 => ?_⟩
  · rw [hcheck, if_pos (by omega)]
  rw [if_neg (not_not_intro ⟨h1, h40⟩)] at hcheck
  refine ⟨fun htmpl => exec_place_of_check (e := .tmpl) ?_, fun htmpl => ?_⟩
  · rw [hcheck, if_pos (by simp [htmpl])]
  rw [if_neg (not_not_intro htmpl)] at hcheck
  refine ⟨fun hblk => exec_place_of_check (e := .blkRange) ?_,
    fun hb1 hb128 hdesc => exec_place_of_check (e := .desc) ?_⟩
  · rw [hcheck, if_pos hblk]
  · obtain ⟨b, hb, hrange⟩ := hdesc
    rw [hcheck, if_neg (by omega), if_pos fun hall => ?_]
    have := hall b hb
    omega

end Sys2Proof.Machine
end

section
/-! The interleaved codeword sequence and its bit stream (spec 43 R183, R184). -/

namespace Sys2Proof.Machine

/-! ## Lists of equal length, one after another -/

/-- When all of a family of lists have `m` elements, element `t` of the `k`-th stands at `m·k + t` of them all. -/
theorem getElem?_flatMap_of_length {α β : Type} {f : α → List β} {m : Nat} (hf : ∀ x, (f x).length = m) (l : List α)
    (k : Nat) {t : Nat} (ht : t < m) : (l.flatMap f)[m * k + t]? = l[k]?.bind fun x => (f x)[t]? := by
  induction l generalizing k with
  | nil => simp
  | cons x l ih =>
    rw [List.flatMap_cons]
    cases k with
    | zero => simp [List.getElem?_append_left, hf x, ht]
    | succ k =>
      have hk : m * (k + 1) + t - (f x).length = m * k + t := by rw [hf x, Nat.mul_succ]; omega
      rw [List.getElem?_append_right (by rw [hf x, Nat.mul_succ]; omega), hk, ih k]
      simp

theorem length_flatMap_of_length {α β : Type} {f : α → List β} {m : Nat} (hf : ∀ x, (f x).length = m) (l : List α) :
    (l.flatMap f).length = m * l.length := by
  simp [List.length_flatMap, hf, Nat.mul_comm]

/-! ## The bit stream -/

theorem length_bitsMsbFirst (q : Byte) : (bitsMsbFirst q).length = 8 := rfl

/-- Bit `t` of an expanded codeword is its bit 7 - t (R7, R184). -/
theorem getElem?_bitsMsbFirst (q : Byte) {t : Nat} (ht : t < 8) : (bitsMsbFirst q)[t]? = some (q.getLsbD (7 - t)) := by
  interval_cases t <;> rfl

/-- Settles O25: the stream is made of pieces of eight bits, one for each codeword. -/
theorem bitStreamMsbFirst : Obligations.BitStreamMsbFirst := by
  refine fun s => ⟨length_flatMap_of_length length_bitsMsbFirst _, fun k t hk ht => ?_⟩
  rw [State.bitStream, getElem?_flatMap_of_length length_bitsMsbFirst _ k ht, List.getElem?_eq_getElem hk]
  exact getElem?_bitsMsbFirst _ ht

/-! ## The interleaved sequence -/

/-- Round `i` of the interleaving: codeword `i` of every block that has one (R183). -/
def interleaveRound (blocks : List (List Byte)) (i : Nat) : List Byte := blocks.filterMap fun b => b[i]?

/-- The first `n` rounds of the interleaving. -/
def interleaveRounds (blocks : List (List Byte)) (n : Nat) : List Byte :=
  (List.range n).flatMap (interleaveRound blocks)

/-- The interleaving has as many rounds as the longest block has codewords. -/
theorem interleave_eq_rounds (blocks : List (List Byte)) :
    interleave blocks = interleaveRounds blocks ((blocks.map List.length).foldl max 0) := rfl

theorem interleaveRounds_succ (blocks : List (List Byte)) (n : Nat) :
    interleaveRounds blocks (n + 1) = interleaveRounds blocks n ++ interleaveRound blocks n := by
  simp [interleaveRounds, List.range_succ]

/-- A round has a codeword for each block that is long enough. -/
theorem length_interleaveRound (blocks : List (List Byte)) (i : Nat) :
    (interleaveRound blocks i).length = (blocks.filter fun x => decide (i < x.length)).length := by
  rw [interleaveRound, List.length_filterMap_eq_countP, List.countP_eq_length_filter]
  exact congrArg List.length (List.filter_congr fun x _ => Bool.eq_iff_iff.mpr (by simp))

/-- `n` rounds take the first `n` codewords of each block. -/
theorem length_interleaveRounds (blocks : List (List Byte)) (n : Nat) :
    (interleaveRounds blocks n).length = (blocks.map fun x => min n x.length).sum := by
  induction n with
  | zero => simp [interleaveRounds]
  | succ n ih =>
    rw [interleaveRounds_succ, List.length_append, ih, length_interleaveRound]
    clear ih
    induction blocks with
    | nil => rfl
    | cons x blocks ih =>
      rw [List.filter_cons, List.map_cons, List.map_cons, List.sum_cons, List.sum_cons]
      by_cases hx : n < x.length
      · rw [if_pos (decide_eq_true hx), List.length_cons]
        omega
      · rw [if_neg (by simpa using hx)]
        omega

/-- No element exceeds the maximum taken along the list. -/
theorem le_foldl_max {l : List Nat} {x : Nat} (h : x ∈ l) (a : Nat) : x ≤ l.foldl max a :=
  (List.max?_eq_some_iff.mp (List.max?_cons' (x := a))).2 x (List.mem_cons_of_mem _ h)

/-- Interleaving keeps the number of codewords (R183). -/
theorem length_interleave (blocks : List (List Byte)) : (interleave blocks).length = (blocks.map List.length).sum := by
  rw [interleave_eq_rounds, length_interleaveRounds]
  refine congrArg List.sum (List.map_congr_left fun x hx => ?_)
  exact Nat.min_eq_right (le_foldl_max (List.mem_map_of_mem hx) 0)

/-- Later rounds only append. -/
theorem interleaveRounds_prefix (blocks : List (List Byte)) {n m : Nat} (h : n ≤ m) :
    interleaveRounds blocks n <+: interleaveRounds blocks m := by
  obtain ⟨d, rfl⟩ := Nat.le.dest h
  rw [interleaveRounds, interleaveRounds, List.range_add, List.flatMap_append]
  exact List.prefix_append _ _

/-- In round `i`, codeword `i` of block `b` comes after those of the blocks before it. -/
theorem getElem?_interleaveRound {blocks : List (List Byte)} {b i : Nat} (hb : b < blocks.length)
    (hi : i < blocks[b].length) :
    (interleaveRound blocks i)[(interleaveRound (blocks.take b) i).length]? = some blocks[b][i] := by
  have hsplit : interleaveRound blocks i =
      interleaveRound (blocks.take b) i ++ blocks[b][i] :: interleaveRound (blocks.drop (b + 1)) i := by
    calc interleaveRound blocks i
        = interleaveRound (blocks.take b ++ blocks[b] :: blocks.drop (b + 1)) i := by
          rw [← List.drop_eq_getElem_cons hb, List.take_append_drop]
      _ = _ := by simp only [interleaveRound, List.filterMap_append, List.filterMap_cons, List.getElem?_eq_getElem hi]
  simp [hsplit]

/-- A codeword stands in its slot: behind the rounds before its own, and behind the blocks before its own (R183). -/
theorem getElem?_interleave {blocks : List (List Byte)} {b i : Nat} (hb : b < blocks.length)
    (hi : i < blocks[b].length) : (interleave blocks)[interleaveSlot blocks b i]? = some blocks[b][i] := by
  have hslot : interleaveSlot blocks b i =
      (interleaveRounds blocks i).length + (interleaveRound (blocks.take b) i).length := by
    rw [length_interleaveRounds, length_interleaveRound, interleaveSlot]
  have hlt : i < (blocks.map List.length).foldl max 0 :=
    Nat.lt_of_lt_of_le hi (le_foldl_max (List.mem_map_of_mem (List.getElem_mem hb)) 0)
  have hget : (interleaveRounds blocks (i + 1))[interleaveSlot blocks b i]? = some blocks[b][i] := by
    rw [hslot, interleaveRounds_succ, List.getElem?_append_right (Nat.le_add_right _ _), Nat.add_sub_cancel_left,
      getElem?_interleaveRound hb hi]
  obtain ⟨hj, hj'⟩ := List.getElem?_eq_some_iff.mp hget
  rw [interleave_eq_rounds, List.prefix_iff_getElem?.mp (interleaveRounds_prefix blocks hlt) _ hj, hj']

/-- Settles O24: each round takes one codeword of each block that has one, in the blocks' order; the rest are the model's
own definitions read in bytes. -/
theorem interleaveOrder : Obligations.InterleaveOrder := by
  refine ⟨fun blocks => ⟨length_interleave blocks, fun _ _ => getElem?_interleave⟩,
    fun s => ⟨rfl, ?_, fun b => ⟨rfl, rfl, rfl, rfl⟩, fun _ _ => rfl⟩⟩
  rw [State.codewordSequence, List.length_append, length_interleave, length_interleave, List.sum_map_add]
  simp [State.dataBlocks, State.parityBlocks, State.codewords, Function.comp_def]

end Sys2Proof.Machine
end

section
/-! The zig-zag traversal: its big columns, the order of its cells, and that it examines every cell outside column 6
once (spec 43 R186, R187). -/

namespace Sys2Proof.Machine

/-! ## The big columns -/

/-- A right column is never column 0 (R186). -/
theorem one_le_of_mem_rightColumns {fuel right x : Nat} (h : x ∈ rightColumns fuel right) : 1 ≤ x := by
  induction fuel generalizing right with
  | zero => cases h
  | succ fuel ih =>
    unfold rightColumns at h
    split at h
    · obtain rfl | h := List.mem_cons.mp h
      · split <;> omega
      · exact ih h
    · cases h

/-- Each big column lies left of the two columns of the one before (R186). -/
theorem rightColumns_pairwise (fuel right : Nat) : (rightColumns fuel right).Pairwise fun a b => b + 1 < a := by
  induction fuel generalizing right with
  | zero => exact .nil
  | succ fuel ih =>
    unfold rightColumns
    split
    · refine List.pairwise_cons.mpr ⟨fun b hb => ?_, ih _⟩
      have hpos := one_le_of_mem_rightColumns hb
      have hle := le_of_mem_rightColumns hb
      omega
    · exact .nil

/-- From an even column 6 + 2k on: every second column down to 8, then 5, 3 and 1 (R186). -/
theorem rightColumns_even (fuel k : Nat) : rightColumns (fuel + 3 + k) (6 + 2 * k) =
    ((List.range k).map fun j => 6 + 2 * k - 2 * j) ++ [5, 3, 1] := by
  induction k with
  | zero => cases fuel <;> rfl
  | succ k ih =>
    have hstep : rightColumns (fuel + 3 + (k + 1)) (6 + 2 * (k + 1)) =
        (6 + 2 * (k + 1)) :: rightColumns (fuel + 3 + k) (6 + 2 * k) := by
      rw [← Nat.add_assoc, rightColumns, if_pos (by omega), if_neg (by omega)]
      rfl
    have hmap : ((fun j => 6 + 2 * (k + 1) - 2 * j) ∘ Nat.succ) = fun j => 6 + 2 * k - 2 * j := by
      funext j
      simp only [Function.comp_apply]
      omega
    rw [hstep, ih, List.range_succ_eq_map, List.map_cons, List.map_map, hmap]
    rfl

/-- The right columns of a grid of side 17 + 4v (R186). -/
theorem rightColumns_side (v : Nat) : rightColumns (17 + 4 * v) (16 + 4 * v) =
    ((List.range (5 + 2 * v)).map fun k => 16 + 4 * v - 2 * k) ++ [5, 3, 1] := by
  have h := rightColumns_even (9 + 2 * v) (5 + 2 * v)
  rwa [show 9 + 2 * v + 3 + (5 + 2 * v) = 17 + 4 * v by omega, show 6 + 2 * (5 + 2 * v) = 16 + 4 * v by omega] at h

/-- Every column but column 6 belongs to a big column, as its right or its left one (R186, R187). -/
theorem exists_rightColumn_iff (v c : Nat) :
    (∃ right ∈ rightColumns (17 + 4 * v) (16 + 4 * v), c = right ∨ c = right - 1) ↔ c < 17 + 4 * v ∧ c ≠ 6 := by
  simp only [rightColumns_side, List.mem_append, List.mem_map, List.mem_range, List.mem_cons, List.not_mem_nil, or_false]
  constructor
  · rintro ⟨right, ⟨k, hk, rfl⟩ | hright, hc⟩ <;> omega
  · rintro ⟨hlt, h6⟩
    by_cases h : 7 ≤ c
    · exact ⟨16 + 4 * v - 2 * ((16 + 4 * v - c) / 2), .inl ⟨_, by omega, rfl⟩, by omega⟩
    · exact ⟨c + 1 - c % 2, .inr (by omega), by omega⟩

/-! ## The cells of a big column -/

/-- The two cells of row `x` of the visit come right before left, `2x` cells after the start (R186). -/
theorem getElem?_columnCells {n x e : Nat} (right : Nat) (up : Bool) (hx : x < n) (he : e < 2) :
    (columnCells n right up)[2 * x + e]? = some (if up then n - 1 - x else x, right - e) := by
  rw [columnCells, getElem?_flatMap_of_length (m := 2) (fun _ => rfl) _ x he, List.getElem?_range hx]
  interval_cases e <;> rfl

/-- A big column holds the cells of its two columns (R186). -/
theorem mem_columnCells_iff {n right r c : Nat} {up : Bool} :
    (r, c) ∈ columnCells n right up ↔ r < n ∧ (c = right ∨ c = right - 1) := by
  simp only [columnCells, List.mem_flatMap, List.mem_range, List.mem_cons, Prod.mk.injEq, List.not_mem_nil, or_false]
  constructor
  · rintro ⟨v, hv, h⟩
    split at h <;> omega
  · rintro ⟨hr, hc⟩
    refine ⟨if up then n - 1 - r else r, by split <;> omega, ?_⟩
    cases up <;> simp <;> omega

/-- A big column visits no cell twice. -/
theorem columnCells_nodup (n : Nat) {right : Nat} (up : Bool) (h : 1 ≤ right) : (columnCells n right up).Nodup := by
  refine List.nodup_flatMap.mpr ⟨fun v _ => ?_, ?_⟩
  · have hne : right ≠ right - 1 := by omega
    simp [hne]
  · refine List.nodup_range.imp_of_mem fun {v w} hv hw hvw => List.disjoint_left.mpr fun ⟨r, c⟩ hrv hrw => ?_
    simp only [List.mem_range, List.mem_cons, Prod.mk.injEq, List.not_mem_nil, or_false] at hv hw hrv hrw
    cases up <;> simp only [Bool.false_eq_true, if_true, if_false] at hrv hrw <;> omega

/-! ## The whole traversal -/

/-- A cell is examined when it lies in one of the big columns (R186). -/
theorem mem_traversal_iff {n r c : Nat} :
    (r, c) ∈ traversal n ↔ r < n ∧ ∃ right ∈ rightColumns n (n - 1), c = right ∨ c = right - 1 := by
  simp only [traversal, List.mem_flatMap, Prod.exists, mem_columnCells_iff]
  constructor
  · rintro ⟨right, p, hp, hr, hc⟩
    exact ⟨hr, right, List.fst_mem_of_mem_zipIdx hp, hc⟩
  · rintro ⟨hr, right, hright, hc⟩
    obtain ⟨p, hp⟩ := List.mem_iff_getElem?.mp hright
    exact ⟨right, p, List.mk_mem_zipIdx_iff_getElem?.mpr hp, hr, hc⟩

/-- No cell is examined twice: the big columns share no column (R187). -/
theorem traversal_nodup (n : Nat) : (traversal n).Nodup := by
  refine List.nodup_flatMap.mpr ⟨fun ⟨right, p⟩ hp => ?_, ?_⟩
  · exact columnCells_nodup n _ (one_le_of_mem_rightColumns (List.fst_mem_of_mem_zipIdx hp))
  · have hcols := rightColumns_pairwise n (n - 1)
    rw [← List.zipIdx_map_fst 0 (rightColumns n (n - 1)), List.pairwise_map] at hcols
    refine hcols.imp fun {a b} hab => List.disjoint_left.mpr fun ⟨r, c⟩ ha hb => ?_
    obtain ⟨-, ha⟩ := mem_columnCells_iff.mp ha
    obtain ⟨-, hb⟩ := mem_columnCells_iff.mp hb
    omega

/-- Big column `p` starts after the `2n` cells of each one before it, and goes upward when p is even (R186). -/
theorem getElem?_traversal {n p x e right : Nat} (hx : x < n) (he : e < 2)
    (hp : (rightColumns n (n - 1))[p]? = some right) :
    (traversal n)[2 * n * p + 2 * x + e]? = some (if p % 2 = 0 then n - 1 - x else x, right - e) := by
  have hlen : ∀ a : Nat × Nat, (columnCells n a.1 (a.2 % 2 == 0)).length = 2 * n := fun a => by
    rw [length_columnCells, Nat.mul_comm]
  rw [Nat.add_assoc, traversal, getElem?_flatMap_of_length hlen _ p (by omega), List.getElem?_zipIdx, hp]
  simpa using getElem?_columnCells right (p % 2 == 0) hx he

/-- The examined cells of a grid of side 17 + 4v are those outside column 6 (R187). -/
theorem mem_traversal_side (v r c : Nat) :
    (r, c) ∈ traversal (17 + 4 * v) ↔ r < 17 + 4 * v ∧ c < 17 + 4 * v ∧ c ≠ 6 := by
  rw [mem_traversal_iff, show 17 + 4 * v - 1 = 16 + 4 * v by omega, exists_rightColumn_iff]

/-- The traversal lists the in-grid cells outside column 6, in another order (R187). -/
theorem traversal_perm (v : Nat) :
    (traversal (17 + 4 * v)).Perm ((gridCells (17 + 4 * v)).filter fun rc => decide (rc.2 ≠ 6)) := by
  refine (List.perm_ext_iff_of_nodup (traversal_nodup _) ((gridCells_nodup _).filter _)).mpr fun ⟨r, c⟩ => ?_
  rw [mem_traversal_side, List.mem_filter, mem_gridCells, decide_eq_true_eq, and_assoc]

/-- The cells to fill are the pending ones of the traversal (R186). -/
theorem State.visitOrder_eq (s : State) :
    s.visitOrder = (traversal s.side).filter fun rc => s.tmplCell rc.1 rc.2 = 0b10 := rfl

/-- Settles O26: the big columns share no column and leave out column 6 alone, so the traversal reorders the cells
outside it. -/
theorem traversalVisitsEachCellOnce : Obligations.TraversalVisitsEachCellOnce := by
  intro v _ _
  refine ⟨rightColumns_side v, ?_, fun p x e right hx he hp => ?_, traversal_nodup _, mem_traversal_side v,
    fun s hs => ?_⟩
  · simp only [rightColumns_side, List.length_append, List.length_map, List.length_range, List.length_cons,
      List.length_nil]
    omega
  · have hn : 17 + 4 * v - 1 = 16 + 4 * v := by omega
    have h := getElem?_traversal hx he (hn ▸ hp)
    rwa [hn] at h
  · obtain rfl := hs
    refine ⟨s.visitOrder_eq, ?_⟩
    have h := ((traversal_perm s.version.toNat).filter fun rc => s.tmplCell rc.1 rc.2 = 0b10).length_eq
    rw [List.filter_filter] at h
    rw [State.visitOrder_eq, State.side, h]
    simp only [Bool.decide_and, Bool.and_comm]

end Sys2Proof.Machine
end

section
/-! What PLACE leaves in SHADOW and in the registers when its checks hold (spec 43 R189 to R192). -/

namespace Sys2Proof.Machine

/-! ## The command -/

/-- With its checks met and room for all bits, PLACE completes (R189). -/
theorem exec_place_of_fits {s : State} (h : PlaceReady s) (hfit : s.bitStream.length ≤ s.visitOrder.length) :
    exec .place s = .next s.placed.completeOk := by
  change execPlace s = _
  rw [execPlace, (placeCheck_eq_none s).mpr h]
  exact congrArg _ (if_neg (Nat.not_lt.mpr hfit))

/-- With its checks met and too many bits, PLACE raises E_PLACE_OVF after its writes (R191). -/
theorem exec_place_of_overflow {s : State} (h : PlaceReady s) (hover : s.visitOrder.length < s.bitStream.length) :
    exec .place s = .next (s.placed.completeErr .placeOvf) := by
  change execPlace s = _
  rw [execPlace, (placeCheck_eq_none s).mpr h]
  exact congrArg _ (if_pos hover)

/-- PLACE's own writes are to RAM, PLACE_CAP and PLACE_BITS (R192). -/
theorem State.placed_eq (s : State) : s.placed =
    { s with ram := s.placed.ram, placeCap := BitVec.ofNat 16 s.visitOrder.length,
             placeBits := BitVec.ofNat 16 (min s.visitOrder.length s.bitStream.length) } := by
  conv_lhs => rw [State.placed, State.writeCells_eq]
  rfl

/-! ## SHADOW -/

/-- The first components of a zip are as many of the first list as the second list has elements. -/
theorem map_fst_zip_eq_take {α β : Type} (l : List α) (l' : List β) :
    (l.zip l').map Prod.fst = l.take l'.length := by
  induction l generalizing l' with
  | nil => simp
  | cons x l ih =>
    cases l' with
    | nil => rfl
    | cons y l' => simp [ih]

section Placed

variable {s t : State}

/-- PLACE writes cells of stored columns. -/
theorem col_lt_of_mem_placeWrites {e : CellValue} (h : s.version.toNat ≤ 40) (he : e ∈ s.placeWrites) :
    e.1.2 < 256 := by
  obtain ⟨-, hcol, hside⟩ := cellsInGrid_placeWrites h e he
  omega

variable (ht : t.ram = s.placed.ram)
include ht

/-- PLACE writes the byte of every in-grid cell, so the cell reads later as it was left. -/
theorem bitCell_placed {r c : Nat} (hr : r < s.side) (hc : c < s.side) :
    t.bitCell shadowBase r c = (s.writeCells shadowBase s.placeWrites).bitCell shadowBase r c := by
  refine State.bitCell_eq_of_read? (by rw [ht]; rfl) (State.read?_writeCells_of_mem _ _ _ ((r, c), false) ?_)
  exact List.mem_append_left _ (List.mem_map.mpr ⟨(r, c), (mem_gridCells _ r c).mpr ⟨hr, hc⟩, rfl⟩)

variable (hversion : s.version.toNat ≤ 40)
include hversion

/-- A visited cell holds the bit that was placed there: it is visited once (R189). -/
theorem bitCell_of_mem_zip {rc : Nat × Nat} {v : Bool} (h : (rc, v) ∈ s.visitOrder.zip s.bitStream) :
    t.bitCell shadowBase rc.1 rc.2 = v := by
  obtain ⟨hr, hc⟩ := State.mem_visitOrder (List.of_mem_zip h).1
  rw [bitCell_placed ht hr hc, State.placeWrites, State.writeCells_append]
  refine State.bitCell_writeCells_of_mem _ _ _ _ _ _ (fun e he => ?_) ?_ h
  · exact col_lt_of_mem_placeWrites hversion (List.mem_append_right _ he)
  · rw [map_fst_zip_eq_take]
    exact ((traversal_nodup _).filter _).sublist (List.take_sublist _ _)

/-- An in-grid cell that got no bit was cleared (R189). -/
theorem bitCell_of_notMem {r c : Nat} (hr : r < s.side) (hc : c < s.side)
    (h : (r, c) ∉ s.visitOrder.take s.bitStream.length) : t.bitCell shadowBase r c = false := by
  have hcol : ∀ e ∈ s.placeWrites, e.1.2 < 256 := fun _ => col_lt_of_mem_placeWrites hversion
  have hside : s.side ≤ 177 := side_le_of_version_le hversion
  rw [bitCell_placed ht hr hc, State.placeWrites, State.writeCells_append,
    State.bitCell_writeCells_of_notMem]
  · refine State.bitCell_writeCells_of_mem _ _ _ _ _ _ (fun e he => hcol e (List.mem_append_left _ he)) ?_ ?_
    · simpa [Function.comp_def] using gridCells_nodup s.side
    · exact List.mem_map.mpr ⟨(r, c), (mem_gridCells _ r c).mpr ⟨hr, hc⟩, rfl⟩
  · exact fun e he => hcol e (List.mem_append_right _ he)
  · omega
  · intro e he heq
    rw [← heq, ← map_fst_zip_eq_take] at h
    exact h (List.mem_map_of_mem he)

/-- The k-th visited cell holds the k-th bit (R189). -/
theorem bitCell_visitOrder_getElem (k : Nat) (hv : k < s.visitOrder.length) (hb : k < s.bitStream.length) :
    t.bitCell shadowBase s.visitOrder[k].1 s.visitOrder[k].2 = s.bitStream[k] := by
  refine bitCell_of_mem_zip ht hversion (List.mem_iff_getElem.mpr ⟨k, ?_, List.getElem_zip⟩)
  rw [List.length_zip]
  exact Nat.lt_min.mpr ⟨hv, hb⟩

end Placed

/-- Settles O27: all bits are placed, each in a cell of its own, after every in-grid cell was cleared. -/
theorem placeFillsVisitedCells : Obligations.PlaceFillsVisitedCells := by
  intro s hready hfit
  obtain ⟨-, hversion, -⟩ := id hready
  have hram : s.placed.completeOk.ram = s.placed.ram := rfl
  have hplaced := s.placed_eq
  rw [Nat.min_eq_right hfit] at hplaced
  exact ⟨_, exec_place_of_fits hready hfit, congrArg State.completeOk hplaced, bitCell_visitOrder_getElem hram hversion,
    fun _ _ => bitCell_of_notMem hram hversion⟩

/-- Settles O28: there is a bit for every visited cell, so only cells that are not visited stay cleared. -/
theorem placeOverflowFillsEveryCell : Obligations.PlaceOverflowFillsEveryCell := by
  intro s hready hover
  obtain ⟨-, hversion, -⟩ := id hready
  have hram : (s.placed.completeErr .placeOvf).ram = s.placed.ram := rfl
  have hplaced := s.placed_eq
  rw [Nat.min_eq_left (Nat.le_of_lt hover)] at hplaced
  exact ⟨_, exec_place_of_overflow hready hover, congrArg (State.completeErr · .placeOvf) hplaced,
    bitCell_visitOrder_getElem hram hversion,
    fun _ _ hr hc hout => bitCell_of_notMem hram hversion hr hc fun h => hout (List.mem_of_mem_take h)⟩

end Sys2Proof.Machine
end

section
/-! The checks of the mask commands and what each of them does when they hold (spec 44 R211, R232, R236, R238). -/

namespace Sys2Proof.Machine

/-- MASK_EVAL ends with the error of its first failing check (R211, R262). -/
theorem exec_maskEval_of_check (m : BitVec 3) {s : State} {e : ErrCode} (h : s.maskCheck = some e) :
    exec (.maskEval m) s = .next (s.afterError e.code) := by
  change execMaskEval m s = _
  rw [execMaskEval, h]
  exact congrArg _ (completeErr_eq s e)

/-- MASK_SELECT ends with the error of its first failing check (R211, R262). -/
theorem exec_maskSelect_of_check {s : State} {e : ErrCode} (h : s.maskCheck = some e) :
    exec .maskSelect s = .next (s.afterError e.code) := by
  change execMaskSelect s = _
  rw [execMaskSelect, h]
  exact congrArg _ (completeErr_eq s e)

/-- With its checks met, MASK_EVAL completes (R232). -/
theorem exec_maskEval_of_ready (m : BitVec 3) {s : State} (h : s.maskCheck = none) :
    exec (.maskEval m) s = .next (maskEvaluated m s).completeOk := by
  change execMaskEval m s = _
  rw [execMaskEval, h]
  rfl

/-- With its checks met, MASK_SELECT completes (R236). -/
theorem exec_maskSelect_of_ready {s : State} (h : s.maskCheck = none) :
    exec .maskSelect s = .next (maskSelected s).completeOk := by
  change execMaskSelect s = _
  rw [execMaskSelect, h]
  rfl

/-- With a valid VERSION, SCORE completes (R238). -/
theorem exec_score_of_valid {s : State} (h1 : 1 ≤ s.version.toNat) (h40 : s.version.toNat ≤ 40) :
    exec .score s = .next (s.setScores (scoreGrid s.params s.side s.realGrid)).completeOk := by
  change execScore s = _
  rw [execScore, if_pos ((versionOk_iff s).mpr ⟨h1, h40⟩)]

/-- With an invalid VERSION, SCORE raises E_VERSION (R238). -/
theorem exec_score_of_invalid {s : State} (h : s.version.toNat < 1 ∨ s.version.toNat > 40) :
    exec .score s = .next (s.afterError 0x0A) := by
  have hbad : ¬s.versionOk = true := by rw [versionOk_iff]; omega
  change execScore s = _
  rw [execScore, if_neg hbad]
  exact congrArg _ (completeErr_eq s .version)

/-- The two checks of the mask commands as arithmetic, in their order (R211). -/
theorem maskCheck_eq (s : State) : s.maskCheck =
    if ¬(1 ≤ s.version.toNat ∧ s.version.toNat ≤ 40) then some .version
    else if ¬s.tmplOk = true then some .tmpl else none := by
  simp only [State.maskCheck, ← versionOk_iff, Bool.not_eq_true', Bool.not_eq_true]

/-- Settles O34: each code is that of the first check that fails. -/
theorem maskChecksInOrder : Obligations.MaskChecksInOrder := by
  intro m s
  have hcheck := maskCheck_eq s
  refine ⟨fun hversion => ?_, fun h1 h40 htmpl => ?_⟩
  · rw [if_pos (by omega)] at hcheck
    exact ⟨exec_maskEval_of_check m hcheck, exec_maskSelect_of_check hcheck, exec_score_of_invalid hversion⟩
  · rw [if_neg (not_not_intro ⟨h1, h40⟩), if_pos (by simp [htmpl])] at hcheck
    exact ⟨exec_maskEval_of_check m hcheck, exec_maskSelect_of_check hcheck⟩

end Sys2Proof.Machine
end

section
/-! The four rules of the scorer said without their scanners: maximal runs, windows of four equal cells, deleted and
counted matches, the dark ratio (spec 44 R217 to R226). -/

namespace Sys2Proof.Machine

/-! ## Rule 1 -/

/-- What a line's maximal runs contribute to rule 1 (R220). -/
def maximalRunPenalty (l : List Bool) : Nat := ((l.splitBy (· == ·)).map fun run => runPenalty run.length).sum

/-- A line of one colour is one run (R220). -/
theorem splitBy_replicate_succ (b : Bool) (k : Nat) :
    (List.replicate (k + 1) b).splitBy (· == ·) = [List.replicate (k + 1) b] :=
  List.splitBy_of_isChain (by simp) (List.isChain_replicate_of_rel _ (by simp))

theorem maximalRunPenalty_replicate (b : Bool) (k : Nat) :
    maximalRunPenalty (List.replicate (k + 1) b) = runPenalty (k + 1) := by
  rw [maximalRunPenalty, splitBy_replicate_succ]
  simp

/-- A run ends where the colour changes (R220). -/
theorem maximalRunPenalty_replicate_append {b x : Bool} (k : Nat) (l : List Bool) (h : x ≠ b) :
    maximalRunPenalty (List.replicate (k + 1) b ++ x :: l) = runPenalty (k + 1) + maximalRunPenalty (x :: l) := by
  have hend : ∀ y ∈ (List.replicate (k + 1) b).getLast?, (y == x) = false := by
    simp [List.getLast?_replicate, h.symm]
  rw [maximalRunPenalty, List.splitBy_append_cons l hend, splitBy_replicate_succ]
  simp [maximalRunPenalty]

/-- The run counter inside a run of `k + 1` cells adds up the maximal runs of the line they begin (R220). -/
theorem runsFrom_eq (b : Bool) (k : Nat) (l : List Bool) :
    runsFrom b (k + 1) l = maximalRunPenalty (List.replicate (k + 1) b ++ l) := by
  induction l generalizing b k with
  | nil => rw [List.append_nil, maximalRunPenalty_replicate, runsFrom]
  | cons x rest ih =>
    rw [runsFrom]
    split
    · next heq =>
      rw [ih, heq, List.replicate_succ', List.append_assoc, List.singleton_append]
    · next hne =>
      rw [ih, maximalRunPenalty_replicate_append k rest hne]
      rfl

/-- The run counter adds up the maximal runs of the line (R220). -/
theorem runs_eq (l : List Bool) : runs l = maximalRunPenalty l := by
  cases l with
  | nil => rfl
  | cons x rest => exact runsFrom_eq x 0 rest

/-- Settles O37: rule 1 runs the counter over the rows and columns. -/
theorem runCounterCountsMaximalRuns : Obligations.RunCounterCountsMaximalRuns := fun n g =>
  congrArg (fun f => ((gridLines n g).map f).sum) (funext runs_eq)

/-! ## Rule 2 -/

/-- A window counts when each of its cells equals the next (R222). -/
theorem blockPenalty_eq (g : Grid) (r c : Nat) : blockPenalty g r c =
    if gridCell g r c = gridCell g r (c + 1) ∧ gridCell g r (c + 1) = gridCell g (r + 1) c ∧
      gridCell g (r + 1) c = gridCell g (r + 1) (c + 1) then 3 else 0 := by
  rw [blockPenalty]
  refine if_congr ⟨fun ⟨h1, h2, h3⟩ => ?_, fun ⟨h1, h2, h3⟩ => ?_⟩ rfl rfl
  · exact ⟨h1, h1.symm.trans h2, h2.symm.trans h3⟩
  · exact ⟨h1, h1.trans h2, (h1.trans h2).trans h3⟩

/-- Rule 2 window by window, row by row (R222). -/
theorem rule2_eq_sum (n : Nat) (g : Grid) : rule2 n g =
    ((List.range (n - 1)).map fun r => ((List.range (n - 1)).map (blockPenalty g r)).sum).sum :=
  sum_gridCells (n - 1) (blockPenalty g)

/-! ## Rule 3 -/

/-- A line with no match is kept (R223). -/
theorem strip_of_no_match {p s : List Bool} (h : ¬ p <:+: s) : strip p s = s := by
  induction s with
  | nil => rfl
  | cons x rest ih =>
    rw [strip_cons_of_not_prefix fun hpre => h hpre.isInfix,
      ih fun hin => h (hin.trans (List.suffix_cons x rest).isInfix)]

/-- A line with no match counts 0 (R224). -/
theorem countFrom_of_no_match {p s : List Bool} (h : ¬ p <:+: s) : countFrom p 0 s = 0 := by
  induction s with
  | nil => rfl
  | cons x rest ih =>
    rw [countFrom_cons_of_not_prefix fun hpre => h hpre.isInfix,
      ih fun hin => h (hin.trans (List.suffix_cons x rest).isInfix)]

/-- Both scanners pass over characters at which no match starts, and take the first match (R223, R224). -/
theorem scan_of_first_match {p : List Bool} (hp : p ≠ []) (a b : List Bool)
    (h : ∀ k, k < a.length → ¬ p <+: (a ++ p ++ b).drop k) :
    strip p (a ++ p ++ b) = a ++ strip p b ∧ countFrom p 0 (a ++ p ++ b) = 1 + countFrom p 0 b := by
  induction a with
  | nil =>
    have hpre : p <+: [] ++ p ++ b := by simp
    rw [strip_of_prefix hp hpre, countFrom_of_prefix hp hpre]
    simp
  | cons x a ih =>
    have hhead : ¬ p <+: x :: (a ++ p ++ b) := h 0 (Nat.succ_pos _)
    obtain ⟨hstrip, hcount⟩ := ih fun k hk => h (k + 1) (Nat.succ_lt_succ hk)
    simp only [List.cons_append]
    rw [strip_cons_of_not_prefix hhead, countFrom_cons_of_not_prefix hhead, hstrip, hcount]
    exact ⟨rfl, rfl⟩

/-- Each counted match is deleted, and nothing else is (R223, R224). -/
theorem length_strip_add {p : List Bool} (hp : p ≠ []) (s : List Bool) :
    (strip p s).length + p.length * countFrom p 0 s = s.length := by
  induction hn : s.length using Nat.strong_induction_on generalizing s with
  | _ n ih =>
    subst hn
    by_cases hm : p <+: s
    · have hlen := hm.length_le
      have hpos := List.length_pos_iff.mpr hp
      have hrest := ih (s.drop p.length).length (by rw [List.length_drop]; omega) _ rfl
      rw [List.length_drop] at hrest
      rw [strip_of_prefix hp hm, countFrom_of_prefix hp hm, Nat.mul_add]
      omega
    · cases s with
      | nil => simp [countFrom, strip, stripFrom]
      | cons x rest =>
        have hrest := ih rest.length (by simp) rest rfl
        rw [strip_cons_of_not_prefix hm, countFrom_cons_of_not_prefix hm, List.length_cons, List.length_cons]
        omega

/-- The two strips remove 11 characters for each match that line3 counts (R223). -/
theorem length_strip_add_line3 (s : List Bool) :
    (strip patternP2 (strip patternP1 s)).length + 11 * line3 .strip s = s.length := by
  have h1 : (strip patternP1 s).length + 11 * countFrom patternP1 0 s = s.length :=
    length_strip_add (p := patternP1) (by decide) s
  have h2 : (strip patternP2 (strip patternP1 s)).length + 11 * countFrom patternP2 0 (strip patternP1 s) =
      (strip patternP1 s).length := length_strip_add (p := patternP2) (by decide) _
  rw [line3]
  omega

/-- Settles O38: each scanner takes the first match and goes on behind it, so what it removes are whole matches. -/
theorem stripRemovesWholeMatches : Obligations.StripRemovesWholeMatches :=
  ⟨rfl, rfl, fun _ a b hp => scan_of_first_match hp a b,
    fun _ _ _ h => ⟨strip_of_no_match h, countFrom_of_no_match h⟩,
    fun s => ⟨length_strip_add_line3 s, rfl⟩, fun _ _ _ => rfl⟩

/-! ## Rule 4 -/

/-- The dark cells are counted row by row (R226). -/
theorem darkCount_eq_sum (n : Nat) (g : Grid) :
    darkCount n g = ((List.range n).map fun r => (List.range n).countP fun c => gridCell g r c).sum := by
  rw [darkCount, ← List.countP_eq_length_filter, gridCells, List.countP_flatMap]
  simp [List.countP_map, Function.comp_def]

/-- The ratio in twentieths is the ratio in percent, truncated, in fives (R226). -/
theorem percent_div_five (dark total : Nat) : 100 * dark / total / 5 = 20 * dark / total := by
  rw [Nat.div_div_eq_div_mul, show 100 * dark = 20 * dark * 5 by ring, Nat.mul_div_mul_right _ _ (by norm_num)]

/-- The ratio in twentieths is 10 exactly in the band from 50 to 55 percent (R226). -/
theorem twentieths_eq_ten_iff {dark total : Nat} (h : 0 < total) :
    20 * dark / total = 10 ↔ 50 * total ≤ 100 * dark ∧ 100 * dark < 55 * total := by
  rw [Nat.div_eq_iff h]
  omega

/-- Settles O39: with q = (20·dark) div total the forms are equal arithmetic, and q is 0 or 20 at the extremes. -/
theorem darkRatioForms : Obligations.DarkRatioForms := by
  refine ⟨fun n g => congrArg (darkPenalty · (n * n)) (darkCount_eq_sum n g), fun dark total hpos hle => ?_⟩
  have hext : dark = 0 ∨ dark = total → 20 * dark / total = 0 ∨ 20 * dark / total = 20 := by
    rintro (rfl | rfl)
    · exact .inl (by simp)
    · exact .inr (Nat.mul_div_cancel _ hpos)
  rw [percent_div_five, ← twentieths_eq_ten_iff hpos, darkPenalty]
  generalize 20 * dark / total = q at hext
  refine ⟨rfl, ?_, rfl, ?_, fun h => ?_⟩
  · omega
  · omega
  · obtain rfl | rfl := hext h <;> rfl

end Sys2Proof.Machine
end

section
/-! SCORE: the scores of the grid in REAL, and of a grid of one colour (spec 44 R217 to R226, R238, 95 T-SC-1). -/

namespace Sys2Proof.Machine

/-! ## The command -/

/-- SCORE's own writes are R1 to R4 and PENALTY, the sum of the four as words (R228, R238). -/
theorem setScores_completeOk_eq (s : State) (x : Scores) : (s.setScores x).completeOk =
    { s with r1 := BitVec.ofNat 32 x.s1, r2 := BitVec.ofNat 32 x.s2, r3 := BitVec.ofNat 32 x.s3,
             r4 := BitVec.ofNat 32 x.s4, penalty := BitVec.ofNat 32 (scoreTotal x),
             pendcmd := none, done := true, draws := s.draws + 1 } := rfl

/-- The total of the scores as words (R228). -/
theorem ofNat_scoreTotal (x : Scores) : BitVec.ofNat 32 (scoreTotal x) =
    BitVec.ofNat 32 x.s1 + BitVec.ofNat 32 x.s2 + BitVec.ofNat 32 x.s3 + BitVec.ofNat 32 x.s4 := by
  simp only [scoreTotal, BitVec.ofNat_add]

/-- Settles O35: SCORE stores the scores of REAL's grid, and rule 2 adds its windows row by row. -/
theorem scoreReportsFourRules : Obligations.ScoreReportsFourRules := by
  refine ⟨fun s r c hr hc => gridCell_gridOf _ hr hc, fun n g => ?_, by decide, fun s =>
    ⟨fun h1 h40 => ?_, exec_score_of_invalid⟩⟩
  · simp only [rule2_eq_sum, ← blockPenalty_eq]
  · rw [exec_score_of_valid h1 h40, setScores_completeOk_eq, ofNat_scoreTotal]
    rfl

/-! ## A grid of one colour -/

/-- A grid is made by the values of its in-grid cells. -/
theorem gridOf_congr {n : Nat} {f f' : Nat → Nat → Bool} (h : ∀ r c, r < n → c < n → f r c = f' r c) :
    gridOf n f = gridOf n f' :=
  List.map_congr_left fun r hr => List.map_congr_left fun c hc => h r c (List.mem_range.mp hr) (List.mem_range.mp hc)

/-- The rules read the in-grid cells of a grid alone, so every line of a uniform one has one colour (R217). -/
theorem gridLines_uniform (n : Nat) (b : Bool) :
    gridLines n (gridOf n fun _ _ => b) = List.replicate (2 * n) (List.replicate n b) := by
  have hcell (r c : Nat) (hr : r < n) (hc : c < n) : gridCell (gridOf n fun _ _ => b) r c = b := gridCell_gridOf _ hr hc
  rw [gridLines, gridOf_congr hcell, gridOf_congr fun c r hc hr => hcell r c hr hc]
  simp [gridOf, List.map_const', Nat.two_mul]

/-- A line of one colour is one run (R220). -/
theorem runs_replicate (b : Bool) {n : Nat} (h : 5 ≤ n) : runs (List.replicate n b) = n - 2 := by
  obtain ⟨k, rfl⟩ : ∃ k, n = k + 1 := ⟨n - 1, by omega⟩
  rw [runs_eq, maximalRunPenalty_replicate, runPenalty, if_pos h]

theorem rule1_uniform (b : Bool) {n : Nat} (h : 5 ≤ n) : rule1 n (gridOf n fun _ _ => b) = 2 * n * (n - 2) := by
  rw [rule1, gridLines_uniform, List.map_replicate, List.sum_replicate_nat, runs_replicate b h]

/-- Every window of a uniform grid counts (R222). -/
theorem rule2_uniform (n : Nat) (b : Bool) : rule2 n (gridOf n fun _ _ => b) = 3 * (n - 1) ^ 2 := by
  have hwindow : ∀ rc ∈ gridCells (n - 1), blockPenalty (gridOf n fun _ _ => b) rc.1 rc.2 = 3 := by
    intro rc hrc
    obtain ⟨hr, hc⟩ := (mem_gridCells _ rc.1 rc.2).mp hrc
    rw [blockPenalty, gridCell_gridOf _ (by omega) (by omega), gridCell_gridOf _ (by omega) (by omega),
      gridCell_gridOf _ (by omega) (by omega), gridCell_gridOf _ (by omega) (by omega)]
    simp
  rw [rule2, List.map_congr_left hwindow, List.map_const', List.sum_replicate_nat, length_gridCells]
  ring

/-- A pattern with two colours has no match on a line of one (R223). -/
theorem not_infix_replicate {p : List Bool} (hdark : true ∈ p) (hlight : false ∈ p) (n : Nat) (b : Bool) :
    ¬ p <:+: List.replicate n b := fun h =>
  Bool.noConfusion ((List.eq_of_mem_replicate (h.subset hdark)).trans (List.eq_of_mem_replicate (h.subset hlight)).symm)

theorem line3_replicate (sem : Config.Rule3Semantics) (n : Nat) (b : Bool) : line3 sem (List.replicate n b) = 0 := by
  have hP1 := not_infix_replicate (p := patternP1) (by decide) (by decide) n b
  have hP2 := not_infix_replicate (p := patternP2) (by decide) (by decide) n b
  cases sem with
  | strip => simp [line3, strip_of_no_match hP1, strip_of_no_match hP2]
  | count => simp [line3, countFrom_of_no_match hP1, countFrom_of_no_match hP2]

theorem rule3_uniform (sem : Config.Rule3Semantics) (n : Nat) (b : Bool) :
    rule3 sem n (gridOf n fun _ _ => b) = 0 := by
  rw [rule3, gridLines_uniform, List.map_replicate, line3_replicate]
  simp

/-- A uniform grid is all light or all dark (R226). -/
theorem darkCount_uniform (n : Nat) (b : Bool) :
    darkCount n (gridOf n fun _ _ => b) = if b then n * n else 0 := by
  have hcell : ∀ rc ∈ gridCells n, gridCell (gridOf n fun _ _ => b) rc.1 rc.2 = b := fun rc hrc => by
    obtain ⟨hr, hc⟩ := (mem_gridCells n rc.1 rc.2).mp hrc
    exact gridCell_gridOf _ hr hc
  rw [darkCount, List.filter_congr hcell]
  cases b <;> simp [length_gridCells]

theorem rule4_uniform (b : Bool) {n : Nat} (h : 0 < n) : rule4 n (gridOf n fun _ _ => b) = 100 := by
  obtain ⟨-, hforms⟩ := darkRatioForms
  rw [rule4, darkCount_uniform]
  have hle : (if b then n * n else 0) ≤ n * n := by split <;> omega
  obtain ⟨-, -, -, -, hextreme⟩ := hforms _ (n * n) (Nat.mul_pos h h) hle
  exact hextreme (by cases b <;> simp)

/-- Settles O36: the grid in REAL is the uniform one, and each rule has its value there. -/
theorem uniformGridScore : Obligations.UniformGridScore := by
  intro s b h1 h40 hcell
  have hgrid : s.realGrid = gridOf s.side fun _ _ => b := gridOf_congr hcell
  have hside : 21 ≤ s.side := by unfold State.side; omega
  have hscores : scoreGrid s.params s.side s.realGrid =
      { s1 := 2 * s.side * (s.side - 2), s2 := 3 * (s.side - 1) ^ 2, s3 := 0, s4 := 100 } := by
    rw [scoreGrid, hgrid, rule1_uniform b (by omega), rule2_uniform, rule3_uniform, rule4_uniform b (by omega)]
  rw [exec_score_of_valid h1 h40, setScores_completeOk_eq, hscores]
  rfl

end Sys2Proof.Machine
end

section
/-! What MASK_EVAL leaves in REAL and in the registers when its checks hold (spec 44 R212 to R215, R232). -/

namespace Sys2Proof.Machine

/-! ## The mask predicates -/

/-- The mask predicates in r and c, mask 7 in both forms, mask 6 in the QR standard's form too (R213, R214). -/
theorem maskPred_iff (form : Config.Mask7Form) (r c : Nat) :
    (maskPred form 0 r c = true ↔ (r + c) % 2 = 0) ∧
    (maskPred form 1 r c = true ↔ r % 2 = 0) ∧
    (maskPred form 2 r c = true ↔ c % 3 = 0) ∧
    (maskPred form 3 r c = true ↔ (r + c) % 3 = 0) ∧
    (maskPred form 4 r c = true ↔ (r / 2 + c / 3) % 2 = 0) ∧
    (maskPred form 5 r c = true ↔ r * c % 2 + r * c % 3 = 0) ∧
    (maskPred form 6 r c = true ↔ (r * c % 3 + r * c) % 2 = 0) ∧
    (maskPred form 6 r c = true ↔ (r * c % 2 + r * c % 3) % 2 = 0) ∧
    (maskPred .doc 7 r c = true ↔ ((r + c) % 3 + r + c) % 2 = 0) ∧
    (maskPred .iso 7 r c = true ↔ ((r + c) % 2 + r * c % 3) % 2 = 0) := by
  have hsix : maskPred form 6 r c = true ↔ (r * c % 3 + r * c) % 2 = 0 := beq_iff_eq
  refine ⟨beq_iff_eq, beq_iff_eq, beq_iff_eq, beq_iff_eq, beq_iff_eq, beq_iff_eq, hsix, ?_, beq_iff_eq, beq_iff_eq⟩
  rw [hsix]
  generalize r * c = x
  omega

/-! ## The format cells -/

theorem mem_fmtCells_of_copyA (p : Config.Params) (n : Nat) {rc : Nat × Nat} (h : rc ∈ fmtCellsA) :
    rc ∈ fmtCells p n :=
  (forall_mem_fmtCells.mp fun _ hrc => hrc).1 rc h

theorem mem_fmtCells_of_copyB {p : Config.Params} {n : Nat} (hp : p.copyB = .both) {rc : Nat × Nat}
    (h : rc ∈ fmtCellsB n) : rc ∈ fmtCells p n :=
  (forall_mem_fmtCells.mp fun _ hrc => hrc).2 hp rc h

/-- From side 21 on the format cells are in the grid (R212). -/
theorem lt_of_mem_fmtCells {p : Config.Params} {n : Nat} (h : 21 ≤ n) :
    ∀ rc ∈ fmtCells p n, rc.1 < n ∧ rc.2 < n := by
  refine forall_mem_fmtCells.mpr ⟨fun rc hrc => ?_, fun _ => ?_⟩
  · have := le_of_mem_fmtCellsA rc hrc
    omega
  · simp only [fmtCellsB, List.forall_mem_cons, List.not_mem_nil, false_imp_iff, implies_true, and_true]
    omega

/-- A listed element that stands once in the list is found at its index. -/
theorem idxOf?_getElem {α : Type} [BEq α] [LawfulBEq α] {l : List α} (hl : l.Nodup) {k : Nat} (hk : k < l.length) :
    l.idxOf? l[k] = some k :=
  List.idxOf?_eq_some_iff.mpr ⟨hk, rfl, fun _ hj heq => hj.ne (hl.getElem_inj_iff.mp heq)⟩

/-- Cell A(k) shows character k (R212). -/
theorem fmtChar?_copyA (p : Config.Params) (n : Nat) {k : Nat} (hk : k < fmtCellsA.length) :
    fmtChar? p n fmtCellsA[k].1 fmtCellsA[k].2 = some k := by
  have hA : fmtCellsA.idxOf? (fmtCellsA[k].1, fmtCellsA[k].2) = some k := idxOf?_getElem (by decide) hk
  simp only [fmtChar?, hA]

/-- Cell B(k) shows character k when both copies are written: it is no cell of copy A (R212). -/
theorem fmtChar?_copyB {p : Config.Params} {n : Nat} (hp : p.copyB = .both) (hn : 21 ≤ n) {k : Nat}
    (hk : k < (fmtCellsB n).length) : fmtChar? p n (fmtCellsB n)[k].1 (fmtCellsB n)[k].2 = some k := by
  obtain ⟨-, hnodup, hdisjoint⟩ := List.nodup_append.mp (fmtCells_nodup hn)
  have hA : fmtCellsA.idxOf? ((fmtCellsB n)[k].1, (fmtCellsB n)[k].2) = none :=
    List.idxOf?_eq_none_iff.mpr fun hmem => hdisjoint _ hmem _ (List.getElem_mem hk) rfl
  have hB : (fmtCellsB n).idxOf? ((fmtCellsB n)[k].1, (fmtCellsB n)[k].2) = some k := idxOf?_getElem hnodup hk
  simp only [fmtChar?, hA, hp, hB]

/-- A cell that is no format cell shows no character (R212). -/
theorem fmtChar?_of_notMem {p : Config.Params} {n r c : Nat} (h : (r, c) ∉ fmtCells p n) : fmtChar? p n r c = none := by
  unfold fmtCells at h
  unfold fmtChar?
  cases hp : p.copyB with
  | both =>
    simp only [hp, List.mem_append, not_or] at h
    rw [List.idxOf?_eq_none_iff.mpr h.1]
    exact List.idxOf?_eq_none_iff.mpr h.2
  | aOnly =>
    simp only [hp] at h
    rw [List.idxOf?_eq_none_iff.mpr h]

/-! ## The realized grid -/

section Realize

variable {s : State} {r c : Nat} (m : BitVec 3)

theorem realizeCell_of_fmtChar {k : Nat} (h : fmtChar? s.params s.side r c = some k) :
    s.realizeCell m r c = (s.fmtWord m).getLsbD (14 - k) := by
  simp only [State.realizeCell, h]

/-- A fixed cell that is no format cell keeps the template's value (R215). -/
theorem realizeCell_of_fixed (h : (r, c) ∉ fmtCells s.params s.side)
    (ht : s.tmplCell r c = 0b00 ∨ s.tmplCell r c = 0b01) : s.realizeCell m r c = (s.tmplCell r c).getLsbD 0 := by
  simp only [State.realizeCell, fmtChar?_of_notMem h, if_pos ht]

/-- A pending cell that is no format cell shows the shadow bit XOR the mask (R215). -/
theorem realizeCell_of_pending (h : (r, c) ∉ fmtCells s.params s.side) (ht : s.tmplCell r c = 0b10) :
    s.realizeCell m r c = (s.bitCell shadowBase r c ^^ maskPred s.params.mask7 m r c) := by
  simp only [State.realizeCell, fmtChar?_of_notMem h, ht]
  rfl

end Realize

/-- A template code that is neither pending nor reserved is a fixed one (R40). -/
theorem tmplCode_fixed : ∀ x : BitVec 2, x ≠ 0b10 → x ≠ 0b11 → x = 0b00 ∨ x = 0b01 := by decide

/-! ## REAL -/

/-- After a grid was written to REAL, each in-grid cell holds the grid's value, also when it is read later (R232). -/
theorem bitCell_of_gridWrites {s t : State} {g : Grid} (ht : t.ram = (s.writeCells realBase (gridWrites s.side g)).ram)
    (hversion : s.version.toNat ≤ 40) {r c : Nat} (hr : r < s.side) (hc : c < s.side) :
    t.bitCell realBase r c = gridCell g r c := by
  have hmem : ((r, c), gridCell g r c) ∈ gridWrites s.side g :=
    List.mem_map.mpr ⟨(r, c), (mem_gridCells _ r c).mpr ⟨hr, hc⟩, rfl⟩
  have hnodup : ((gridWrites s.side g).map Prod.fst).Nodup := by
    simpa [gridWrites, Function.comp_def] using gridCells_nodup s.side
  calc t.bitCell realBase r c
      = (s.writeCells realBase (gridWrites s.side g)).bitCell realBase r c :=
        State.bitCell_eq_of_read? (by rw [ht]) (State.read?_writeCells_of_mem _ _ _ _ hmem)
    _ = gridCell g r c := by
        refine State.bitCell_writeCells_of_mem _ _ _ _ _ _ (fun e he => ?_) hnodup hmem
        obtain ⟨-, hcol, hside⟩ := cellsInGrid_gridWrites g hversion e he
        omega

/-- REAL's in-grid cells get the realized grid (R232). -/
@[simp] theorem maskEvaluated_ram (m : BitVec 3) (s : State) :
    (maskEvaluated m s).ram = (s.writeCells realBase (gridWrites s.side (s.realize m))).ram := by
  simp only [maskEvaluated, State.setScores_ram]

@[simp] theorem maskEvaluated_r1 (m : BitVec 3) (s : State) :
    (maskEvaluated m s).r1 = BitVec.ofNat 32 (s.maskScores m).s1 := rfl

@[simp] theorem maskEvaluated_r2 (m : BitVec 3) (s : State) :
    (maskEvaluated m s).r2 = BitVec.ofNat 32 (s.maskScores m).s2 := rfl

@[simp] theorem maskEvaluated_r3 (m : BitVec 3) (s : State) :
    (maskEvaluated m s).r3 = BitVec.ofNat 32 (s.maskScores m).s3 := rfl

@[simp] theorem maskEvaluated_r4 (m : BitVec 3) (s : State) :
    (maskEvaluated m s).r4 = BitVec.ofNat 32 (s.maskScores m).s4 := rfl

@[simp] theorem maskEvaluated_penalty (m : BitVec 3) (s : State) :
    (maskEvaluated m s).penalty = BitVec.ofNat 32 (s.maskTotal m) := rfl

/-- MASK_EVAL's own writes are to RAM, R1 to R4, PENALTY and PEN[m] (R232). -/
theorem maskEvaluated_eq (m : BitVec 3) (s : State) : maskEvaluated m s =
    { s with ram := (maskEvaluated m s).ram, r1 := (maskEvaluated m s).r1, r2 := (maskEvaluated m s).r2,
             r3 := (maskEvaluated m s).r3, r4 := (maskEvaluated m s).r4, penalty := (maskEvaluated m s).penalty,
             pen := s.pen.set m.toNat (maskEvaluated m s).penalty m.isLt } := by
  conv_lhs => rw [maskEvaluated, State.writeCells_eq]
  rfl

section MaskEval

variable {m : BitVec 3} {s t : State} (ht : t.ram = (maskEvaluated m s).ram) (hversion : s.version.toNat ≤ 40)
include ht hversion

/-- MASK_EVAL m leaves the realized grid in REAL (R232). -/
theorem bitCell_maskEvaluated {r c : Nat} (hr : r < s.side) (hc : c < s.side) :
    t.bitCell realBase r c = s.realizeCell m r c := by
  rw [bitCell_of_gridWrites (ht.trans (maskEvaluated_ram m s)) hversion hr hc, State.realize, gridCell_gridOf _ hr hc]

/-- The grid in REAL after MASK_EVAL m is the one that was scored (R232). -/
theorem realGrid_maskEvaluated (hside : t.side = s.side) : t.realGrid = s.realize m := by
  rw [State.realGrid, hside]
  exact gridOf_congr fun r c hr hc => bitCell_maskEvaluated ht hversion hr hc

/-- A format cell in REAL shows its character of the format word (R212, R215). -/
theorem bitCell_maskEvaluated_of_fmtCell (h21 : 21 ≤ s.side) {rc : Nat × Nat} {k : Nat}
    (hrc : rc ∈ fmtCells s.params s.side) (hk : fmtChar? s.params s.side rc.1 rc.2 = some k) :
    t.bitCell realBase rc.1 rc.2 = (s.fmtWord m).getLsbD (14 - k) := by
  obtain ⟨hr, hc⟩ := lt_of_mem_fmtCells h21 rc hrc
  exact (bitCell_maskEvaluated ht hversion hr hc).trans (realizeCell_of_fmtChar m hk)

theorem bitCell_maskEvaluated_copyA (h21 : 21 ≤ s.side) {k : Nat} (hk : k < fmtCellsA.length) :
    t.bitCell realBase (fmtCellsA.getD k (0, 0)).1 (fmtCellsA.getD k (0, 0)).2 = (s.fmtWord m).getLsbD (14 - k) := by
  rw [List.getD_eq_getElem _ _ hk]
  exact bitCell_maskEvaluated_of_fmtCell ht hversion h21 (mem_fmtCells_of_copyA _ _ (List.getElem_mem hk))
    (fmtChar?_copyA _ _ hk)

theorem bitCell_maskEvaluated_copyB (h21 : 21 ≤ s.side) (hp : s.params.copyB = .both) {k : Nat}
    (hk : k < (fmtCellsB s.side).length) :
    t.bitCell realBase ((fmtCellsB s.side).getD k (0, 0)).1 ((fmtCellsB s.side).getD k (0, 0)).2 =
      (s.fmtWord m).getLsbD (14 - k) := by
  rw [List.getD_eq_getElem _ _ hk]
  exact bitCell_maskEvaluated_of_fmtCell ht hversion h21 (mem_fmtCells_of_copyB hp (List.getElem_mem hk))
    (fmtChar?_copyB hp h21 hk)

end MaskEval

/-- Settles O32: REAL's in-grid cells are the realized ones, so the scored grid is the one REAL then holds. -/
theorem maskEvalRealizesAndScores : Obligations.MaskEvalRealizesAndScores := by
  refine ⟨maskPred_iff, fun _ _ => rfl, fun m s h1 h40 htmpl => ?_⟩
  have hcheck : s.maskCheck = none := (maskCheck_eq_none s).mpr ⟨h1, h40, htmpl⟩
  have h21 : 21 ≤ s.side := by unfold State.side; omega
  obtain ⟨hcodes, -⟩ := (tmplOk_iff s).mp htmpl
  have hram : (maskEvaluated m s).completeOk.ram = (maskEvaluated m s).ram := rfl
  have hside : (maskEvaluated m s).completeOk.side = s.side := by rw [maskEvaluated_eq]; rfl
  have hreal := realGrid_maskEvaluated hram h40 hside
  refine ⟨_, exec_maskEval_of_ready m hcheck, congrArg State.completeOk (maskEvaluated_eq m s),
    fun k hk => ⟨bitCell_maskEvaluated_copyA hram h40 h21 hk,
      fun hp => bitCell_maskEvaluated_copyB hram h40 h21 hp hk⟩,
    fun r c hr hc hout => ⟨fun hcode => ?_, fun hcode => ?_⟩, ?_, ?_, ?_, ?_, ofNat_scoreTotal _⟩
  · exact (bitCell_maskEvaluated hram h40 hr hc).trans
      (realizeCell_of_fixed m hout (tmplCode_fixed _ hcode (hcodes r c hr hc)))
  · exact (bitCell_maskEvaluated hram h40 hr hc).trans (realizeCell_of_pending m hout hcode)
  all_goals rw [hreal]; rfl

end Sys2Proof.Machine
end

section
/-! MASK_SELECT: the comparator keeps the smallest of the best mask ids, and what the command leaves (spec 44 R234,
R236). -/

namespace Sys2Proof.Machine

/-! ## The comparator -/

/-- `b` is the smallest of the ids that have the least total among `ids` (R234). -/
def LeastMask (total : BitVec 3 → Nat) (ids : List (BitVec 3)) (b : BitVec 3) : Prop :=
  b ∈ ids ∧ ∀ m ∈ ids, total b ≤ total m ∧ (m.toNat < b.toNat → total b < total m)

/-- A higher id replaces the best one only by a strictly lower total (R234). -/
theorem LeastMask.append {total : BitVec 3 → Nat} {ids : List (BitVec 3)} {b m : BitVec 3} (h : LeastMask total ids b)
    (hm : ∀ x ∈ ids, x.toNat < m.toNat) : LeastMask total (ids ++ [m]) (if total m < total b then m else b) := by
  obtain ⟨hb, hleast⟩ := h
  have hbm := hm b hb
  split
  · refine ⟨by simp, fun x hx => ?_⟩
    obtain hx | hx := List.mem_append.mp hx
    · have := hleast x hx
      omega
    · obtain rfl := List.mem_singleton.mp hx
      omega
  · refine ⟨by simp [hb], fun x hx => ?_⟩
    obtain hx | hx := List.mem_append.mp hx
    · exact hleast x hx
    · obtain rfl := List.mem_singleton.mp hx
      omega

/-- Over rising ids the comparator goes from the least mask so far to the least mask of all (R234). -/
theorem LeastMask.foldl_keepBetter {total : BitVec 3 → Nat} (l : List (BitVec 3)) {ids : List (BitVec 3)}
    {b : BitVec 3} (h : LeastMask total ids b) (hids : (ids ++ l).Pairwise fun x y => x.toNat < y.toNat) :
    ∃ b', l.foldl (fun best m => keepBetter best m (total m)) (some (b, total b)) = some (b', total b') ∧
      LeastMask total (ids ++ l) b' := by
  induction l generalizing ids b with
  | nil => exact ⟨b, rfl, by rwa [List.append_nil]⟩
  | cons m rest ih =>
    obtain ⟨-, -, hrising⟩ := List.pairwise_append.mp hids
    have hstep := h.append fun x hx => hrising x hx m (.head _)
    have hkeep : keepBetter (some (b, total b)) m (total m) =
        some (if total m < total b then m else b, total (if total m < total b then m else b)) := by
      simp only [keepBetter]
      split <;> rfl
    rw [List.append_cons] at hids ⊢
    rw [List.foldl_cons, hkeep]
    exact ih hstep hids

/-- The comparator keeps the smallest id with the least total (R234, R236). -/
theorem leastMask_bestMask (total : BitVec 3 → Nat) : LeastMask total maskIds (bestMask total) := by
  have hfirst : LeastMask total [0] 0 := ⟨List.mem_singleton_self _, by simp⟩
  obtain ⟨b, hfold, hleast⟩ := hfirst.foldl_keepBetter [1, 2, 3, 4, 5, 6, 7] (by decide)
  have hbest : bestMask total = b := by
    unfold bestMask maskIds
    rw [List.foldl_cons, keepBetter, hfold]
  rwa [hbest]

/-- Every mask is evaluated (R234). -/
theorem mem_maskIds : ∀ m : BitVec 3, m ∈ maskIds := by decide

/-! ## The command -/

/-- REAL's in-grid cells get the realized grid of the chosen mask (R236). -/
@[simp] theorem maskSelected_ram (s : State) :
    (maskSelected s).ram = (s.writeCells realBase (gridWrites s.side (s.realize s.selectedMask))).ram := by
  simp only [maskSelected, State.setScores_ram]

@[simp] theorem maskSelected_r1 (s : State) :
    (maskSelected s).r1 = BitVec.ofNat 32 (s.maskScores s.selectedMask).s1 := rfl

@[simp] theorem maskSelected_r2 (s : State) :
    (maskSelected s).r2 = BitVec.ofNat 32 (s.maskScores s.selectedMask).s2 := rfl

@[simp] theorem maskSelected_r3 (s : State) :
    (maskSelected s).r3 = BitVec.ofNat 32 (s.maskScores s.selectedMask).s3 := rfl

@[simp] theorem maskSelected_r4 (s : State) :
    (maskSelected s).r4 = BitVec.ofNat 32 (s.maskScores s.selectedMask).s4 := rfl

@[simp] theorem maskSelected_penalty (s : State) :
    (maskSelected s).penalty = BitVec.ofNat 32 (s.maskTotal s.selectedMask) := rfl

theorem maskSelected_pen (s : State) :
    (maskSelected s).pen = Vector.ofFn fun m : Fin 8 => BitVec.ofNat 32 (s.maskTotal (BitVec.ofNat 3 m.val)) := rfl

theorem maskSelected_best (s : State) : (maskSelected s).best = s.selectedMask := rfl

/-- MASK_SELECT's own writes are to RAM, R1 to R4, PENALTY, PEN, BEST and BEST_VALID (R236). -/
theorem maskSelected_eq (s : State) : maskSelected s =
    { s with ram := (maskSelected s).ram, r1 := (maskSelected s).r1, r2 := (maskSelected s).r2,
             r3 := (maskSelected s).r3, r4 := (maskSelected s).r4, penalty := (maskSelected s).penalty,
             pen := (maskSelected s).pen, best := (maskSelected s).best, bestValid := true } := by
  conv_lhs => rw [maskSelected, State.writeCells_eq]
  rfl

/-- PEN[m] is the total of mask m (R236). -/
theorem maskSelected_pen_getElem (s : State) (m : BitVec 3) :
    (maskSelected s).pen[m.toNat]'m.isLt = BitVec.ofNat 32 (s.maskTotal m) := by
  simp only [maskSelected_pen, Vector.getElem_ofFn, BitVec.ofNat_toNat, BitVec.setWidth_eq]

/-- A total of a valid VERSION fits its register (R44). -/
theorem maskTotal_lt {s : State} (hversion : s.version.toNat ≤ 40) (m : BitVec 3) : s.maskTotal m < 2 ^ 32 := by
  obtain ⟨h1, h2, h3, h4, -, hcount⟩ := scoresStayInBounds s.side (s.realize m) (side_le_of_version_le hversion)
  cases hsem : s.params.rule3 <;> simp only [State.maskTotal, State.maskScores, scoreTotal, scoreGrid, hsem] <;> omega

theorem toNat_maskSelected_pen_getElem {s : State} (hversion : s.version.toNat ≤ 40) (m : BitVec 3) :
    ((maskSelected s).pen[m.toNat]'m.isLt).toNat = s.maskTotal m := by
  rw [maskSelected_pen_getElem, BitVec.toNat_ofNat, Nat.mod_eq_of_lt (maskTotal_lt hversion m)]

/-- Settles O33: the chosen mask is the comparator's, and what is stored for it is what MASK_EVAL of it stores. -/
theorem maskSelectKeepsLowest : Obligations.MaskSelectKeepsLowest := by
  intro s h1 h40 htmpl
  have hcheck : s.maskCheck = none := (maskCheck_eq_none s).mpr ⟨h1, h40, htmpl⟩
  obtain ⟨-, hleast⟩ := leastMask_bestMask s.maskTotal
  refine ⟨_, exec_maskSelect_of_ready hcheck, congrArg State.completeOk (maskSelected_eq s), fun m => ?_,
    (maskSelected_pen_getElem s s.selectedMask).symm, _, exec_maskEval_of_ready _ hcheck, rfl, rfl, rfl, rfl, rfl, rfl⟩
  have hbest : ((maskSelected s).pen[s.selectedMask.toNat]'s.selectedMask.isLt).toNat = s.maskTotal s.selectedMask :=
    toNat_maskSelected_pen_getElem h40 _
  have hm := toNat_maskSelected_pen_getElem h40 m
  obtain ⟨hle, hlt⟩ := hleast m (mem_maskIds m)
  refine ⟨?_, fun hsmaller => ?_, fun u hu => ?_⟩
  · exact (hbest.trans_le hle).trans_eq hm.symm
  · exact (hbest.trans_lt (hlt hsmaller)).trans_eq hm.symm
  · rw [exec_maskEval_of_ready m hcheck] at hu
    injection hu with hu
    exact (maskSelected_pen_getElem s m).trans (congrArg State.penalty hu)

end Sys2Proof.Machine
end

section
/-! What the mask commands read: VERSION, FMT, the parameters, and TMPL and SHADOW, or REAL for SCORE (spec 44 R210,
R229). -/

namespace Sys2Proof.Machine

/-! ## Cells -/

theorem byteAt_congr {s s' : State} {a : Nat} (hdraws : s.draws = s'.draws) (h : s.ram.read? a = s'.ram.read? a) :
    s.byteAt a = s'.byteAt a := by
  rw [State.byteAt, State.byteAt, hdraws, h]

theorem side_congr {s s' : State} (h : s.version = s'.version) : s.side = s'.side := by
  rw [State.side, State.side, h]

/-- SCORE reads REAL alone (R238). -/
theorem realGrid_congr {s s' : State} (hversion : s.version = s'.version) (hdraws : s.draws = s'.draws)
    (h40 : s.version.toNat ≤ 40) (hram : ∀ a, 0x4000 ≤ a ∧ a ≤ 0x5FFF → s.ram.read? a = s'.ram.read? a) :
    s.realGrid = s'.realGrid := by
  have hside := side_le_of_version_le h40
  rw [State.realGrid, State.realGrid, ← side_congr hversion]
  refine gridOf_congr fun r c hr hc => ?_
  rw [State.bitCell, State.bitCell, byteAt_congr hdraws (hram _ _)]
  unfold bitCellOffset realBase
  omega

/-! ## The realized grids -/

section Inputs

variable {s s' : State} (hversion : s.version = s'.version) (hfmt : s.fmt = s'.fmt) (hparams : s.params = s'.params)
  (hdraws : s.draws = s'.draws) (h40 : s.version.toNat ≤ 40)
  (hram : ∀ a, 0x2000 ≤ a ∧ a ≤ 0x3FFF ∨ 0x8000 ≤ a ∧ a ≤ 0xBFFF → s.ram.read? a = s'.ram.read? a)

include hdraws h40 hram in
theorem tmplCell_congr {r c : Nat} (hr : r < s.side) (hc : c < s.side) : s.tmplCell r c = s'.tmplCell r c := by
  have hside := side_le_of_version_le h40
  rw [State.tmplCell, State.tmplCell, byteAt_congr hdraws (hram _ _)]
  unfold tmplBase
  omega

include hdraws h40 hram in
theorem shadowCell_congr {r c : Nat} (hr : r < s.side) (hc : c < s.side) :
    s.bitCell shadowBase r c = s'.bitCell shadowBase r c := by
  have hside := side_le_of_version_le h40
  rw [State.bitCell, State.bitCell, byteAt_congr hdraws (hram _ _)]
  unfold bitCellOffset shadowBase
  omega

include hversion hparams hdraws h40 hram in
/-- The template check reads VERSION, FMT_COPY_B and TMPL alone: its cells are in the grid (R182). -/
theorem tmplOk_congr (h1 : 1 ≤ s.version.toNat) (h : s.tmplOk = true) : s'.tmplOk = true := by
  have h21 : 21 ≤ s.side := by unfold State.side; omega
  simp only [State.tmplOk, Bool.and_eq_true, List.all_eq_true] at h ⊢
  rw [← hparams, ← side_congr hversion]
  refine ⟨fun rc hrc => ?_, fun rc hrc => ?_⟩
  · obtain ⟨hr, hc⟩ := (mem_gridCells _ rc.1 rc.2).mp hrc
    rw [← tmplCell_congr hdraws h40 hram hr hc]
    exact h.1 rc hrc
  · obtain ⟨hr, hc⟩ := lt_of_mem_fmtCells h21 rc hrc
    rw [← tmplCell_congr hdraws h40 hram hr hc]
    exact h.2 rc hrc

include hversion hfmt hparams hdraws h40 hram

/-- A realized cell reads VERSION, FMT, the parameters, TMPL and SHADOW alone (R215). -/
theorem realizeCell_congr (m : BitVec 3) {r c : Nat} (hr : r < s.side) (hc : c < s.side) :
    s.realizeCell m r c = s'.realizeCell m r c := by
  rw [State.realizeCell, State.realizeCell, State.fmtWord, State.fmtWord, ← hparams, ← side_congr hversion, ← hfmt,
    ← tmplCell_congr hdraws h40 hram hr hc, ← shadowCell_congr hdraws h40 hram hr hc]

theorem maskScores_congr : s.maskScores = s'.maskScores := by
  funext m
  rw [State.maskScores, State.maskScores, State.realize, State.realize, ← hparams, ← side_congr hversion,
    gridOf_congr fun r c hr hc => realizeCell_congr hversion hfmt hparams hdraws h40 hram m hr hc]

theorem maskTotal_congr : s.maskTotal = s'.maskTotal := by
  funext m
  rw [State.maskTotal, State.maskTotal, maskScores_congr hversion hfmt hparams hdraws h40 hram]

theorem selectedMask_congr : s.selectedMask = s'.selectedMask := by
  rw [State.selectedMask, State.selectedMask, maskTotal_congr hversion hfmt hparams hdraws h40 hram]

end Inputs

/-- MASK_SELECT leaves the realized grid of the chosen mask in REAL (R236). -/
theorem bitCell_maskSelected {s t : State} (ht : t.ram = (maskSelected s).ram) (hversion : s.version.toNat ≤ 40)
    {r c : Nat} (hr : r < s.side) (hc : c < s.side) :
    t.bitCell realBase r c = s.realizeCell s.selectedMask r c := by
  rw [bitCell_of_gridWrites (ht.trans (maskSelected_ram s)) hversion hr hc, State.realize, gridCell_gridOf _ hr hc]

/-- Settles O41: the realized cells and the cells of REAL are the same in both states, and so are all scores. -/
theorem maskUnitReadsOnlyItsInputs : Obligations.MaskUnitReadsOnlyItsInputs := by
  intro m s s' hversion hfmt hparams hdraws h1 h40
  have hside := side_congr hversion
  have h1' : 1 ≤ s'.version.toNat := hversion ▸ h1
  have h40' : s'.version.toNat ≤ 40 := hversion ▸ h40
  refine ⟨fun hram htmpl => ?_, fun hram => ?_⟩
  · have hcheck : s.maskCheck = none := (maskCheck_eq_none s).mpr ⟨h1, h40, htmpl⟩
    have hcheck' : s'.maskCheck = none :=
      (maskCheck_eq_none s').mpr ⟨h1', h40', tmplOk_congr hversion hparams hdraws h40 hram h1 htmpl⟩
    have hcell := realizeCell_congr hversion hfmt hparams hdraws h40 hram
    have hscores := maskScores_congr hversion hfmt hparams hdraws h40 hram
    have hbest := selectedMask_congr hversion hfmt hparams hdraws h40 hram
    have htotal := maskTotal_congr hversion hfmt hparams hdraws h40 hram
    refine ⟨_, _, _, _, exec_maskEval_of_ready m hcheck, exec_maskEval_of_ready m hcheck',
      exec_maskSelect_of_ready hcheck, exec_maskSelect_of_ready hcheck', ?_⟩
    simp only [State.completeOk_r1, State.completeOk_r2, State.completeOk_r3, State.completeOk_r4,
      State.completeOk_penalty, State.completeOk_pen, State.completeOk_best, maskEvaluated_r1, maskEvaluated_r2,
      maskEvaluated_r3, maskEvaluated_r4, maskEvaluated_penalty, maskSelected_r1, maskSelected_r2, maskSelected_r3,
      maskSelected_r4, maskSelected_penalty, maskSelected_pen, maskSelected_best, hscores, htotal, hbest, true_and]
    intro r c hr hc
    have hr' : r < s'.side := hside ▸ hr
    have hc' : c < s'.side := hside ▸ hc
    have hchosen : s.realizeCell s.selectedMask r c = s'.realizeCell s'.selectedMask r c := by
      rw [hcell s.selectedMask hr hc, hbest]
    have ht {x : State} : (maskEvaluated m x).completeOk.ram = (maskEvaluated m x).ram := State.completeOk_ram _
    have hu {x : State} : (maskSelected x).completeOk.ram = (maskSelected x).ram := State.completeOk_ram _
    exact ⟨(bitCell_maskEvaluated ht h40 hr hc).trans
        ((hcell m hr hc).trans (bitCell_maskEvaluated ht h40' hr' hc').symm),
      (bitCell_maskSelected hu h40 hr hc).trans (hchosen.trans (bitCell_maskSelected hu h40' hr' hc').symm)⟩
  · have hscores : scoreGrid s.params s.side s.realGrid = scoreGrid s'.params s'.side s'.realGrid := by
      rw [hparams, hside, realGrid_congr hversion hdraws h40 hram]
    refine ⟨_, _, exec_score_of_valid h1 h40, exec_score_of_valid h1' h40', ?_⟩
    simp [hscores]

end Sys2Proof.Machine
end

section
/-! The resets, and the writes that a RUNNING block drops (spec 70 R290, R291, R301): what abandoning a command leaves
in the RAM, command by command and bit by bit. -/

namespace Sys2Proof.Machine

/-! ## Hardware reset -/

/-- The step of a hardware reset, whatever is pending behind it (R290). -/
theorem step_hardReset (s : State) (rest : List Input) :
    step { s with inputs := .hardReset :: rest } = .next { s with inputs := rest }.hardReset := rfl

/-- Settles O47: every register is the one of `State.reset`, and CTRL, STATUS, N and IRQ are computed from those. -/
theorem hardResetLeavesResetValues : Obligations.HardResetLeavesResetValues := by
  intro s rest
  refine ⟨_, step_hardReset s rest, rfl, ?_⟩
  simp [ctrlWord_eq, statusWord_eq, State.busy, State.side, State.irq, State.reset]

/-! ## Writes while RUNNING -/

/-- The locations a host write changes only while IDLE, the command register apart (R68, R301). -/
def Location.writtenOnlyIdle : Location → Bool
  | .version | .blkCount | .fmt _ | .ram _ => true
  | _ => false

/-- While RUNNING such a write is dropped with E_ACCESS_BUSY (R68, R301). -/
theorem hostWrite_busy {s : State} {w : Word} {l : Location} (v : Word) (hbusy : s.pendcmd = some w)
    (h : l.writtenOnlyIdle = true) : s.hostWrite l v = s.afterBusError 0x04 none := by
  cases l with
  | version | blkCount | fmt | ram => exact writeWhenIdle_busy s v w _ hbusy
  | _ => cases h

/-- FMT[m] stands at 0x60 + 4·m (R34). -/
theorem writtenOnlyIdle_locate_fmt {a : Nat} (h4 : a % 4 = 0) (h : 0x060 ≤ a ∧ a ≤ 0x07F) :
    (locate a).writtenOnlyIdle = true := by
  have ha : a = 0x060 + 4 * (BitVec.ofNat 3 ((a - 0x060) / 4)).toNat := by
    rw [BitVec.toNat_ofNat]; omega
  rw [ha, locate_fmt]
  rfl

/-- Settles O54: every listed offset decodes to a location that is written only while IDLE. -/
theorem busyWritesAreDropped : Obligations.BusyWritesAreDropped := by
  intro s w v off rest h4 h
  rw [step_write { s with pendcmd := some w } v rest h4 rfl]
  refine congrArg _ (hostWrite_busy v rfl ?_)
  obtain hversion | hblkCount | hfmt | hram := h
  · rw [hversion]; rfl
  · rw [hblkCount]; rfl
  · exact writtenOnlyIdle_locate_fmt h4 hfmt
  · rw [locate_of_isRam ((isRamOffset_iff _).mpr hram)]; rfl

/-! ## The cells outside an abandoned grid -/

/-- The byte at `a` is written, and its bit `i` is `v`. -/
def Memory.HoldsBit (m : Memory) (a i : Nat) (v : Bool) : Prop := ∃ b, m.read? a = some b ∧ b.getLsbD i = v

/-- A written cell has the same value in every step, whatever its draw number. -/
theorem bitCell_of_holdsBit {s : State} {base r c : Nat} {v : Bool}
    (h : s.ram.HoldsBit (bitCellOffset base r c) (c % 8) v) : s.bitCell base r c = v := by
  obtain ⟨b, hread, hbit⟩ := h
  rw [State.bitCell, State.byteAt_of_read? hread, hbit]

theorem holdsBit_of_written {s : State} {base r c : Nat} (h : s.ram.read? (bitCellOffset base r c) ≠ none) :
    s.ram.HoldsBit (bitCellOffset base r c) (c % 8) (s.bitCell base r c) := by
  obtain ⟨b, hread⟩ := Option.ne_none_iff_exists'.mp h
  exact ⟨b, hread, by rw [State.bitCell, State.byteAt_of_read? hread]⟩

/-- Forgetting bits of one byte keeps every bit of another byte, and every bit of the same byte that is not selected. -/
theorem Memory.HoldsBit.forgetBits {m : Memory} {a a' i : Nat} {v : Bool} {bits free : Byte} (h : m.HoldsBit a' i v)
    (hi : i < 8) (hkept : a' = a → bits.getLsbD i = false) : (m.forgetBits a bits free).HoldsBit a' i v := by
  obtain ⟨b, hread, hbit⟩ := h
  by_cases ha : a' = a
  · subst ha
    have hclear := hkept rfl
    have hpartial : bits ≠ 0xFF := by
      rintro rfl
      interval_cases i <;> cases hclear
    refine ⟨(b &&& ~~~bits) ||| (free &&& bits), ?_, ?_⟩
    · rw [Memory.read?_forgetBits, if_pos rfl, if_neg hpartial, hread, Option.map_some]
    · simp [BitVec.getLsbD_or, BitVec.getLsbD_and, hbit, hclear, hi, -BitVec.getLsbD_eq_getElem]
  · exact ⟨b, by rw [Memory.read?_forgetBits, if_neg ha, hread], hbit⟩

/-- The selected bits of a row's byte are those of the columns below n. -/
theorem getLsbD_rowBits_of_le {n c : Nat} (h : n ≤ c) : (rowBits n (c / 8)).getLsbD (c % 8) = false := by
  unfold rowBits
  rw [if_neg (by omega)]
  split
  · exact BitVec.getLsbD_zero
  · rw [BitVec.getLsbD_ofNat, Nat.testBit_two_pow_sub_one]
    simp only [Bool.and_eq_false_iff, decide_eq_false_iff_not]
    omega

/-- Forgetting a grid keeps every written cell of a row or column outside it (R291). -/
theorem holdsBit_forgetGrid {s : State} {base r c : Nat} {v : Bool} (hc : c < 256) (hout : ¬(r < s.side ∧ c < s.side))
    (h : s.ram.HoldsBit (bitCellOffset base r c) (c % 8) v) :
    Memory.HoldsBit (s.forgetGrid base) (bitCellOffset base r c) (c % 8) v := by
  refine foldl_keeps (P := fun m => m.HoldsBit (bitCellOffset base r c) (c % 8) v) _ _ (fun m x hx hm => ?_) _ h
  obtain ⟨r', k, hr', -, hk, rfl⟩ := mem_gridByteBits hx
  refine hm.forgetBits (Nat.mod_lt c (by omega)) fun hoff => ?_
  obtain ⟨rfl, rfl⟩ : r = r' ∧ c / 8 = k := by
    unfold bitCellOffset at hoff
    dsimp only at hoff
    omega
  exact getLsbD_rowBits_of_le (by omega)

/-! ## The RAM of an abandoned command, by the command -/

section Abandoned

variable {s : State} {w : Word} (hp : s.pendcmd = some w)
include hp

theorem abandonedRam_of_rsEnc {blk : BitVec 8} (hd : decode w = .ok (.rsEnc blk)) :
    s.abandonedRam =
      if blk.toNat < 128 then s.forgetCodewords (s.descriptor blk.toNat).eoff s.genDeg.toNat else s.ram := by
  simp only [State.abandonedRam, hp, hd]
  rfl

/-- PLACE writes SHADOW, the two mask commands REAL (R189, R232, R236). -/
theorem abandonedRam_of_grid {base : Nat} (hd : (decode w = .ok .place ∧ base = 0x2000) ∨
    ((∃ m, decode w = .ok (.maskEval m)) ∧ base = 0x4000) ∨ (decode w = .ok .maskSelect ∧ base = 0x4000)) :
    s.abandonedRam = s.forgetGrid base := by
  obtain ⟨hd, rfl⟩ | ⟨⟨m, hd⟩, rfl⟩ | ⟨hd, rfl⟩ := hd
  · simp only [State.abandonedRam, hp, hd, shadowBase]
  · simp only [State.abandonedRam, hp, hd, realBase]
  · simp only [State.abandonedRam, hp, hd, realBase]

/-- An illegal word and the commands that write no RAM leave it as it was. -/
theorem abandonedRam_of_other (hrsEnc : ∀ blk, decode w ≠ .ok (.rsEnc blk)) (hplace : decode w ≠ .ok .place)
    (hmaskEval : ∀ m, decode w ≠ .ok (.maskEval m)) (hmaskSelect : decode w ≠ .ok .maskSelect) :
    s.abandonedRam = s.ram := by
  cases hd : decode w with
  | error e => simp only [State.abandonedRam, hp, hd]
  | ok i =>
    cases i with
    | rsEnc blk => exact absurd hd (hrsEnc blk)
    | place => exact absurd hd hplace
    | maskEval m => exact absurd hd (hmaskEval m)
    | maskSelect => exact absurd hd hmaskSelect
    | _ => simp only [State.abandonedRam, hp, hd]

/-- An abandoned RS_ENC leaves every byte but its parity codewords as it was (R291). -/
theorem read?_abandonedRam_of_rsEnc {blk : BitVec 8} (hd : decode w = .ok (.rsEnc blk)) {a : Nat}
    (ha : a < 0x1000 + (s.descriptor blk.toNat).eoff ∨
      0x1000 + (s.descriptor blk.toNat).eoff + s.genDeg.toNat ≤ a) :
    Memory.read? s.abandonedRam a = s.ram.read? a := by
  rw [abandonedRam_of_rsEnc hp hd]
  split
  · rw [State.read?_forgetCodewords, if_neg (by omega)]
  · rfl

/-- The parity codewords of an abandoned RS_ENC are unwritten again, as far as CW goes (R291; log 8). -/
theorem read?_abandonedRam_parity {blk : BitVec 8} (hd : decode w = .ok (.rsEnc blk)) (hblk : blk.toNat < 128) {k : Nat}
    (hk : k < s.genDeg.toNat) (hcw : (s.descriptor blk.toNat).eoff + k < 4096) :
    Memory.read? s.abandonedRam (0x1000 + (s.descriptor blk.toNat).eoff + k) = none := by
  rw [abandonedRam_of_rsEnc hp hd, if_pos hblk, State.read?_forgetCodewords, if_pos (by omega)]

end Abandoned

/-! ## Soft reset while RUNNING -/

/-- A write of CTRL with SRST = 1 answers OKAY after the soft reset, busy or not (R23, R291). -/
theorem step_softReset (s : State) {v : Word} (rest : List Input) (hv : v.getLsbD 1 = true) :
    step { s with inputs := hostWR 0x004 v :: rest } = .next ({ s with inputs := rest }.softReset.afterOkay none) := by
  have hctrl : { s with inputs := rest }.writeCtrl v = { s with inputs := rest }.softReset := if_pos hv
  rw [step_write s v rest rfl rfl]
  exact congrArg _ (congrArg (State.afterOkay · none) hctrl)

/-- Settles O49: the step is the soft reset, and its RAM is the abandoned command's, by the command. -/
theorem softResetAbandonsCommand : Obligations.SoftResetAbandonsCommand := by
  intro s w v rest hv
  let u : State := { s with pendcmd := some w, inputs := rest }
  have hp : u.pendcmd = some w := rfl
  refine ⟨u.softReset.afterOkay none, step_softReset { s with pendcmd := some w } rest hv, rfl,
    fun blk hd => ⟨fun a => read?_abandonedRam_of_rsEnc hp hd, fun k hblk => read?_abandonedRam_parity hp hd hblk⟩,
    fun base hd => ?_, abandonedRam_of_other hp⟩
  have hram : (u.softReset.afterOkay none).ram = u.forgetGrid base := abandonedRam_of_grid hp hd
  rw [hram]
  refine ⟨fun a => u.read?_forgetGrid_of_outside base a, fun r c _ hc hout hwritten => bitCell_of_holdsBit ?_⟩
  rw [hram]
  exact holdsBit_forgetGrid hc hout (holdsBit_of_written hwritten)

end Sys2Proof.Machine
end
